-- ==== Sys2Proof/Word.lean ====
section
/-! DEFINITION. The word, byte and buffer types of the block (R7, R32). -/

namespace Sys2Proof

/-- One byte, a `u8`. -/
abbrev Byte := BitVec 8

/-- One word of the host port, a `u32` (R6, `WORD`). -/
abbrev Word := BitVec 32

/-- One 64-bit word: the counter (R19) and the words of SHA-512 (R110). -/
abbrev DWord := BitVec 64

/-- A byte buffer of fixed capacity (R32): index 0 is the first byte. -/
abbrev Buf (n : Nat) := Vector Byte n

end Sys2Proof
end

