-- ==== Sys2Proof/Config.lean ====
section
/-! DEFINITION. The parameters of R6, the fixed points of the register map (R52), and the values the spec leaves open,
which are constants with no body. -/

namespace Sys2Proof

/-- `KEY_MAX`, the capacity of the key buffer in bytes (R6, D8). -/
abbrev Config.keyMax : Nat := 256

/-- `DIGITS_MIN`, the smallest legal code width (R6, D11). -/
abbrev Config.digitsMin : Nat := 1

/-- `DIGITS_MAX`, the largest legal code width (R6, D11). -/
abbrev Config.digitsMax : Nat := 9

/-- `DIGEST_MAX`, the capacity of the digest buffer in bytes (R6, D22). -/
abbrev Config.digestMax : Nat := 64

/-- `CODE_MAX`, the capacity of the code buffer in bytes (R6, D29). -/
abbrev Config.codeMax : Nat := 12

/-- `ADDR_BITS`, the width of the host port's word address: a window of 4096 bytes (R6, D3). -/
abbrev Config.addrBits : Nat := 10

/-- A word address of the host port, `addr[11:2]` (R6, R40). -/
abbrev PortAddr := BitVec Config.addrBits

/-- The capacity of the message buffer in bytes (R20). -/
abbrev Config.msgMax : Nat := 8

/-- The identification word, the ASCII bytes `H O T P` (R13, D1). -/
abbrev Config.idWord : Word := 0x484F5450

/-- The word address of `CMD`, byte offset `0x004` (R14). -/
abbrev Config.cmdAddr : PortAddr := 1

/-- OPEN (R6, R224, D24; log 3): the clock cycles a command of opcode `op` holds the port. By its type it may depend on
the opcode, on `ALG` and on `KLEN` and on nothing else. No step of the model depends on it. -/
opaque Config.latency (op : BitVec 4) (alg klen : Word) : Nat

/-- FREE VALUE (log 7): what `CODE` holds after a `FORMAT` of a `CODEVAL` and `CODEDIG` outside the domain of `DecFormat`
(R150), which no reachable state has (R34). -/
opaque Config.freeCode (codeval : BitVec 30) (codedig : BitVec 4) : Buf Config.codeMax

/-- OPEN (R181, D35; log 8): `WRAPPER_CHECK_ORDER`. Does the wrapper of `generate_totp` check the step before the secret? -/
opaque Config.wrapperStepFirst : Bool

/-- OPEN (R177, I16, N11; log 9): does the wrapper's Base32 decoder accept a secret whose discarded last bits are not all
zero? -/
opaque Config.base32TailAccepted : Bool

/-- OPEN (R177, I16, N11; log 9): does the wrapper accept the empty secret, which decodes to the empty key? -/
opaque Config.base32EmptyAccepted : Bool

end Sys2Proof
end

