-- ==== Sys2Proof/Syntax.lean ====
section
/-! DEFINITION. The six commands of the block and the fields of a command word (R60, R62). -/

namespace Sys2Proof

/-- The commands, one per row of the opcode table (R62). None carries an operand: every operand is a named register
or buffer (R63). -/
inductive Instr where
  | clear
  | encode
  | hmac
  | trunc
  | format
  | hotp
  deriving DecidableEq, Repr

/-- The two fields of a command word (R60): `OP`, bits 3:0, and `ZERO`, bits 31:4. -/
structure CmdFields where
  zero : BitVec 28
  op   : BitVec 4
  deriving DecidableEq, Repr

/-- Why a command word is not one of the six (R64). -/
inductive DecodeError where
  /-- Some bit of `ZERO` is set, whatever `OP` is. -/
  | zeroFieldSet
  /-- `ZERO` is 0 and `OP` is 0 or 7 to 15. -/
  | reservedOpcode (op : BitVec 4)
  deriving DecidableEq, Repr

end Sys2Proof
end

