-- ==== Sys2Proof/Machine/State.lean ====
section
/-! DEFINITION. The state of the block as plain data (R10), the two sides of its host port (R40), the reasons a step can
stop, and the state after reset (R35). -/

namespace Sys2Proof.Machine

/-- The error values of `STATUS.ERR` (R66), in the order of their codes 0 to 8. -/
inductive ErrCode where
  /-- Code 0: success. -/
  | none
  /-- Code 1: the wrapper's; the block never writes it (R176). -/
  | invalidSecret
  /-- Code 2: `DLEN` is not 20, 32 or 64 (R135). -/
  | invalidDigestLength
  /-- Code 3: the test exists and never fires (R145). -/
  | truncationOutOfRange
  /-- Code 4: the wrapper's; the block never writes it (R179). -/
  | invalidStep
  /-- Code 5: `ALG` is not 1, 2 or 3 (R127). -/
  | unsupportedAlgorithm
  /-- Code 6: `DIGITS` is not 1 to 9 (R140). -/
  | invalidDigits
  /-- Code 7: `KLEN` is above 256 (R127). -/
  | keyTooLong
  /-- Code 8: the word written to `CMD` is not a command (R64). -/
  | illegalCommand
  deriving DecidableEq, Repr

/-- The input pins of the host port (R40) as they stand, stable, for one transaction or one idle or reset cycle (R43).
`addr` is the word address `addr[11:2]`; the byte offset is four times it. -/
structure PortIn where
  rst   : Bool
  req   : Bool
  we    : Bool
  addr  : PortAddr
  wdata : Word
  deriving DecidableEq, Repr

/-- The output pins `ack` and `rdata` (R40) at the end of a step. `rdata` is data only with the `ack` of a read; otherwise
it is undefined and not to be sampled, so no value stands for it (log 2). -/
inductive PortOut where
  /-- `ack` low: idle, or reset (R210). -/
  | noAck
  /-- `ack` high at the end of a write. -/
  | ackWrite
  /-- `ack` high at the end of a read, with the word read. -/
  | ackRead (data : Word)
  deriving DecidableEq, Repr

/-- The registers of the port's window (R30). The index of a buffer word counts from 0. -/
inductive PortReg where
  | id
  | cmd
  | status
  | alg
  | digits
  | klen
  | counterLo
  | counterHi
  | msgW (w : Nat)
  | dlen
  | offset
  | bincode
  | codeval
  | codedig
  | codelen
  | codeW (w : Nat)
  | digestW (w : Nat)
  | keyW (w : Nat)
  /-- A reserved word, by its byte offset (R48). -/
  | reserved (off : Nat)
  deriving DecidableEq, Repr

/-- The whole state: the block's own (R10) and, last, the two sides of the port (`inbox`, `out`), which are the model's
own fields (log 1, log 2). -/
@[ext]
structure State where
  /-- `STATUS.ERR`; `STATUS.INTERNAL` is a function of it (R15). -/
  err     : ErrCode
  /-- `ALG`, the hash algorithm tag (R16). -/
  alg     : Word
  /-- `DIGITS`, the requested code length (R17). -/
  digits  : Word
  /-- `KLEN`, the key length in bytes (R18). -/
  klen    : Word
  /-- `COUNTER` (R19). -/
  counter : DWord
  /-- `MSG`, the encoded counter (R20). -/
  msg     : Buf Config.msgMax
  /-- `DLEN`, the digest length in bytes (R21). -/
  dlen    : Word
  /-- `OFFSET`, the truncation offset (R22). -/
  offset  : BitVec 4
  /-- `BINCODE`, the 31-bit integer `P` (R23). -/
  bincode : BitVec 31
  /-- `CODEVAL`, `P mod 10^digits` (R24). -/
  codeval : BitVec 30
  /-- `CODEDIG`, the width the last successful `TRUNC` used; 0 is no result (R25). -/
  codedig : BitVec 4
  /-- `CODELEN`, the number of characters in `CODE` (R26). -/
  codelen : BitVec 4
  /-- `CODE`, the output string (R27). -/
  code    : Buf Config.codeMax
  /-- `DIGEST`, the raw keyed-hash output (R28). -/
  digest  : Buf Config.digestMax
  /-- `KEY`, the secret's bytes (R29). -/
  key     : Buf Config.keyMax
  /-- The host's coming inputs, the next one first: one entry a step (log 1). -/
  inbox   : List PortIn
  /-- The port's outputs at the end of the latest step (log 2). -/
  out     : PortOut
  deriving DecidableEq, Repr

/-- No fault exists: a failing command records a code in `STATUS.ERR` and the block goes on (R194), the port reports no
error (R198), and every transaction in every state has a next state (R199). So there is no constructor, and none is
raised. Safe. -/
inductive Fault
  deriving DecidableEq, Repr

/-- Refusals. -/
inductive Refusal where
  /-- An instruction that has no meaning yet, by its mnemonic; raised by no arm of this model. Safe. -/
  | notModelled (mnemonic : String)
  deriving DecidableEq, Repr

/-- The machine right after reset (R35): every register and every byte of every buffer is zero. The host has presented
nothing and the port acknowledges nothing (R210; log 4). -/
def State.reset : State where
  err     := .none
  alg     := 0
  digits  := 0
  klen    := 0
  counter := 0
  msg     := Vector.replicate _ 0
  dlen    := 0
  offset  := 0
  bincode := 0
  codeval := 0
  codedig := 0
  codelen := 0
  code    := Vector.replicate _ 0
  digest  := Vector.replicate _ 0
  key     := Vector.replicate _ 0
  inbox   := []
  out     := .noAck

end Sys2Proof.Machine
end

