-- ==== Sys2Proof/Machine/Ops.lean ====
section
/-! DEFINITION. The shared operations: byte sequences and words (R7), byte buffers (R32, R46), raising an error (R8, R194),
the stages of a command (R160), and the scrub (R163). -/

namespace Sys2Proof.Machine

/-- `BE` of a byte sequence: the number whose most significant byte is the first (R7). -/
def beNat (bs : List Byte) : Nat := bs.foldl (fun acc b => acc * 256 + b.toNat) 0

/-- `toBE_n(v)`: the `n` bytes whose `BE` value is `v`, most significant first (R7). -/
def toBE (n v : Nat) : List Byte :=
  (List.range n).map fun i => BitVec.ofNat 8 (v / 256 ^ (n - 1 - i))

/-- `ROTL_w(x, n)`, for `0 < n < w` (R7). -/
def rotl {w : Nat} (x : BitVec w) (n : Nat) : BitVec w := (x <<< n) ||| (x >>> (w - n))

/-- `ROTR_w(x, n)`, for `0 < n < w` (R7). -/
def rotr {w : Nat} (x : BitVec w) (n : Nat) : BitVec w := (x >>> n) ||| (x <<< (w - n))

/-- Byte `i` of a buffer. No rule forms an index at or above the capacity (R32); there the value is 0. -/
def bufByte {n : Nat} (b : Buf n) (i : Nat) : Byte := b.toList.getD i 0

/-- The buffer that holds a byte sequence from index 0 and zeros above it. -/
def bufOf (n : Nat) (l : List Byte) : Buf n :=
  ⟨⟨(l ++ List.replicate n 0).take n⟩, by simp⟩

/-- The buffer of zeros. -/
def bufZero (n : Nat) : Buf n := Vector.replicate n 0

/-- Word `w` of a buffer as the port carries it: byte `4w` in bits 7:0 up to byte `4w + 3` in bits 31:24 (R46). -/
def bufWord {n : Nat} (b : Buf n) (w : Nat) : Word :=
  bufByte b (4 * w + 3) ++ bufByte b (4 * w + 2) ++ bufByte b (4 * w + 1) ++ bufByte b (4 * w)

/-- Lane `j` of a port word: bits `8j + 7` to `8j` (R46). -/
def laneByte (v : Word) (j : Nat) : Byte := v.extractLsb' (8 * j) 8

/-- A buffer with the four bytes of word `w` replaced by the lanes of `v` (R46). -/
def bufSetWord {n : Nat} (b : Buf n) (w : Nat) (v : Word) : Buf n :=
  (((b.setIfInBounds (4 * w) (laneByte v 0)).setIfInBounds (4 * w + 1) (laneByte v 1)).setIfInBounds
    (4 * w + 2) (laneByte v 2)).setIfInBounds (4 * w + 3) (laneByte v 3)

/-- `STATUS.ERR <- e` (R61, R191). -/
def setErr (e : ErrCode) (s : State) : State := { s with err := e }

/-- How the body of a command ends (R8, R160): it ran to its end, or it raised an error and nothing after it ran. The state
is the one reached; `STATUS.ERR` is not yet written. -/
inductive Stage where
  | done (s : State)
  | raised (e : ErrCode) (s : State)

/-- The next stage runs where the one before it raised nothing; an error is passed on unchanged (R160, R162). -/
def andThen (r : Stage) (f : State → Stage) : Stage :=
  match r with
  | .done s => f s
  | .raised e s => .raised e s

/-- Error entry, the block's whole exception mechanism (R8, R194): `STATUS.ERR <- code`. Control goes nowhere, and the
outputs were cleared before the test. There is no return from it (R195). -/
def raiseErr (e : ErrCode) (s : State) : State := setErr e s

/-- The end of a body: an error it raised is recorded in `STATUS.ERR` (R194). -/
def finish (r : Stage) : State :=
  match r with
  | .done s => s
  | .raised e s => raiseErr e s

/-- A stepwise command (R61): `STATUS.ERR <- 0`, then the body. -/
def runBody (body : State → Stage) (s : State) : State := finish (body (setErr .none s))

/-- `HMAC`'s outputs cleared (R127). -/
def clearDigest (s : State) : State := { s with digest := bufZero _, dlen := 0 }

/-- `TRUNC`'s outputs cleared (R142). -/
def clearTrunc (s : State) : State := { s with offset := 0, bincode := 0, codeval := 0, codedig := 0 }

/-- `FORMAT`'s outputs cleared, "no code" (R153, R160). -/
def clearCode (s : State) : State := { s with code := bufZero _, codelen := 0 }

/-- `Scrub()` (R163): the secret, the message, the digest and the truncation results are zeroed. -/
def scrub (s : State) : State :=
  { s with
    key := bufZero _, klen := 0, msg := bufZero _, digest := bufZero _, dlen := 0,
    offset := 0, bincode := 0, codeval := 0, codedig := 0 }

/-- Every piece of the block's state at its reset value (R35, R166, R210); the two sides of the port stay. -/
def resetBlock (s : State) : State := { State.reset with inbox := s.inbox, out := s.out }

end Sys2Proof.Machine
end

