-- ==== Sys2Proof/Machine/Operands.lean ====
section
/-! DEFINITION. The operands of the commands. None is assembled from bits of the command word: each is a named register or
buffer, compared as a plain unsigned number (R63). -/

namespace Sys2Proof.Machine

/-- `HashAlgorithm`, the closed enumeration (R9, R65). -/
inductive HashAlg where
  | sha1
  | sha256
  | sha512
  deriving DecidableEq, Repr

/-- The algorithm a tag in `ALG` selects; every other value is an unsupported tag (R65). -/
def algOf (tag : Word) : Option HashAlg :=
  match tag.toNat with
  | 1 => some .sha1
  | 2 => some .sha256
  | 3 => some .sha512
  | _ => none

/-- The tag of an algorithm (R65). -/
def algTag : HashAlg → Word
  | .sha1 => 1
  | .sha256 => 2
  | .sha512 => 3

/-- `L`, the digest length in bytes (R65, R121). -/
def digestLen : HashAlg → Nat
  | .sha1 => 20
  | .sha256 => 32
  | .sha512 => 64

/-- `B`, the hash block size in bytes (R65, R121). -/
def blockSize : HashAlg → Nat
  | .sha1 => 64
  | .sha256 => 64
  | .sha512 => 128

/-- Is `KLEN` within the key buffer (R18, R127)? -/
def klenOk (s : State) : Bool := s.klen.toNat ≤ Config.keyMax

/-- The secret, `KEY[0..KLEN)` (R29, R127). -/
def keyBytes (s : State) : List Byte := s.key.toList.take s.klen.toNat

/-- The message, `MSG[0..8)` (R20, R83). -/
def msgBytes (s : State) : List Byte := s.msg.toList

/-- Is a digest length one of the three of the whitelist (R135)? -/
def digestLenOk (n : Word) : Bool := n.toNat == 20 || n.toNat == 32 || n.toNat == 64

/-- Is a code width legal (R140)? -/
def digitsOk (g : Word) : Bool := Config.digitsMin ≤ g.toNat && g.toNat ≤ Config.digitsMax

end Sys2Proof.Machine
end

