-- ==== Sys2Proof/Machine/Encoder.lean ====
section
/-! DEFINITION. The counter encoder and `ENCODE` (R80 to R83). -/

namespace Sys2Proof.Machine

/-- `EncodeCounter(c)`: byte `i` is bits `63 - 8i` to `56 - 8i` (R80). -/
def encodeCounter (c : DWord) : List Byte := (List.range 8).map fun i => c.extractLsb' (56 - 8 * i) 8

/-- `MSG` loaded with a message (R82). -/
def putMsg (m : List Byte) (s : State) : State := { s with msg := bufOf _ m }

/-- The body of `ENCODE` (R82); it cannot fail. -/
def encodeBody (s : State) : Stage := .done (putMsg (encodeCounter s.counter) s)

/-- `ENCODE` (R82). -/
def execEncode (s : State) : Host.Outcome State Fault Refusal := .next (runBody encodeBody s)

end Sys2Proof.Machine
end

