-- ==== Sys2Proof/Machine/Format.lean ====
section
/-! DEFINITION. The decimal formatter and `FORMAT` (R150 to R153). -/

namespace Sys2Proof.Machine

/-- `DecFormat(v, d)`: `d` ASCII digits, most significant first (R150). -/
def decFormat (v d : Nat) : List Byte :=
  (List.range d).map fun i => BitVec.ofNat 8 (0x30 + v / 10 ^ (d - 1 - i) % 10)

/-- The domain on which the spec defines `DecFormat` (R150): every reachable state is in it (R34). -/
def formatDefined (v : BitVec 30) (d : BitVec 4) : Bool :=
  d.toNat ≤ Config.digitsMax && v.toNat < 10 ^ d.toNat

/-- The bytes of `CODE` for a value and a width (R153); outside the domain of `DecFormat` a free value (log 7). -/
def codeBytes (v : BitVec 30) (d : BitVec 4) : Buf Config.codeMax :=
  if formatDefined v d then bufOf _ (decFormat v.toNat d.toNat) else Config.freeCode v d

/-- `CODE` and `CODELEN` loaded (R153). -/
def putCode (c : Buf Config.codeMax) (n : BitVec 4) (s : State) : State := { s with code := c, codelen := n }

/-- The body of `FORMAT` (R153); it cannot fail. -/
def formatBody (s : State) : Stage :=
  let s := clearCode s
  .done (putCode (codeBytes s.codeval s.codedig) s.codedig s)

/-- `FORMAT` (R153). -/
def execFormat (s : State) : Host.Outcome State Fault Refusal := .next (runBody formatBody s)

end Sys2Proof.Machine
end

