-- ==== Sys2Proof/Machine/Sha1.lean ====
section
/-! DEFINITION. SHA-1 (R90 to R95), and the padding and parsing it shares with SHA-256 and SHA-512 (R91, R101, R111). -/

namespace Sys2Proof.Machine

/-- The padded message (R91, R111): the message, the byte `80`, the fewest zero bytes that make the whole a multiple of the
block size `blk`, and the bit length as `lenBytes` big-endian bytes. -/
def padMsg (blk lenBytes : Nat) (m : List Byte) : List Byte :=
  m ++ [0x80] ++ List.replicate ((blk - (m.length + 1 + lenBytes) % blk) % blk) 0 ++ toBE lenBytes (8 * m.length)

/-- The first `n` pieces of `size` bytes of a byte sequence, in order. -/
def pieces (size : Nat) : Nat → List Byte → List (List Byte)
  | 0, _ => []
  | n + 1, l => l.take size :: pieces size n (l.drop size)

/-- The blocks of a padded message (R91, R111). -/
def msgBlocks (blk lenBytes : Nat) (m : List Byte) : List (List Byte) :=
  let p := padMsg blk lenBytes m
  pieces blk (p.length / blk) p

/-- The sixteen big-endian words of a block, each of `w` bits, `w / 8` bytes (R91, R111). -/
def blockWords (w : Nat) (b : List Byte) : List (BitVec w) :=
  (pieces (w / 8) 16 b).map fun q => BitVec.ofNat w (beNat q)

/-- `W_(t-k)` of a message schedule held newest word first, so that its head is `W_(t-1)`. -/
def back {w : Nat} (ws : List (BitVec w)) (k : Nat) : BitVec w := ws.getD (k - 1) 0

/-- A message schedule, newest word first, extended by `n` words, each the value of `next` at the words before it. -/
def extend {w : Nat} (next : List (BitVec w) → BitVec w) : Nat → List (BitVec w) → List (BitVec w)
  | 0, ws => ws
  | n + 1, ws => extend next n (next ws :: ws)

/-- The message schedule `W_0, W_1, ...` of a block: its sixteen words and `n` more. -/
def schedule {w : Nat} (next : List (BitVec w) → BitVec w) (n : Nat) (b : List Byte) : List (BitVec w) :=
  (extend next n (blockWords w b).reverse).reverse

/-- The chaining value of SHA-1, and the working words `a` to `e` (R94). -/
structure Sha1Words where
  a : Word
  b : Word
  c : Word
  d : Word
  e : Word
  deriving DecidableEq, Repr

/-- `H0` to `H4` (R92). -/
def sha1Init : Sha1Words :=
  { a := 0x67452301, b := 0xEFCDAB89, c := 0x98BADCFE, d := 0x10325476, e := 0xC3D2E1F0 }

/-- `K_t` (R92). -/
def sha1K (t : Nat) : Word :=
  if t < 20 then 0x5A827999 else if t < 40 then 0x6ED9EBA1 else if t < 60 then 0x8F1BBCDC else 0xCA62C1D6

/-- The choose function (R93, R103, R113). -/
def ch {w : Nat} (x y z : BitVec w) : BitVec w := (x &&& y) ^^^ (~~~x &&& z)

/-- The majority function (R93, R103, R113). -/
def maj {w : Nat} (x y z : BitVec w) : BitVec w := (x &&& y) ^^^ (x &&& z) ^^^ (y &&& z)

/-- The parity function (R93). -/
def parity {w : Nat} (x y z : BitVec w) : BitVec w := x ^^^ y ^^^ z

/-- `f_t` (R93). -/
def sha1F (t : Nat) (x y z : Word) : Word :=
  if t < 20 then ch x y z else if t < 40 then parity x y z else if t < 60 then maj x y z else parity x y z

/-- `W_t` for `t >= 16` (R94). -/
def sha1Next (ws : List Word) : Word := rotl (back ws 3 ^^^ back ws 8 ^^^ back ws 14 ^^^ back ws 16) 1

/-- One round (R94). -/
def sha1Round (s : Sha1Words) (t : Nat) (w : Word) : Sha1Words :=
  { a := rotl s.a 5 + sha1F t s.b s.c s.d + s.e + sha1K t + w
    b := s.a, c := rotl s.b 30, d := s.c, e := s.d }

/-- The rounds over the words `W_t, W_(t+1), ...` (R94). -/
def sha1Rounds : Nat → List Word → Sha1Words → Sha1Words
  | _, [], s => s
  | t, w :: ws, s => sha1Rounds (t + 1) ws (sha1Round s t w)

/-- The compression of one block (R94). -/
def sha1Block (h : Sha1Words) (b : List Byte) : Sha1Words :=
  let r := sha1Rounds 0 (schedule sha1Next 64 b) h
  { a := h.a + r.a, b := h.b + r.b, c := h.c + r.c, d := h.d + r.d, e := h.e + r.e }

/-- `SHA1(M)` (R90, R94, R95): 20 bytes. -/
def sha1 (m : List Byte) : List Byte :=
  let h := (msgBlocks 64 8 m).foldl sha1Block sha1Init
  [h.a, h.b, h.c, h.d, h.e].flatMap fun x => toBE 4 x.toNat

end Sys2Proof.Machine
end

