-- ==== Sys2Proof/Machine/Sha256.lean ====
section
/-! DEFINITION. SHA-256 (R100 to R105), over the structure it shares with SHA-512 (R104, R114). -/

namespace Sys2Proof.Machine

/-- The chaining value of SHA-256 and SHA-512, and the working words `a` to `h` (R104, R114). -/
structure Sha2Words (w : Nat) where
  a : BitVec w
  b : BitVec w
  c : BitVec w
  d : BitVec w
  e : BitVec w
  f : BitVec w
  g : BitVec w
  h : BitVec w
  deriving DecidableEq, Repr

/-- What tells SHA-256 and SHA-512 apart (R102, R103, R112, R113): the initial chaining value, the round constants and the
four functions. -/
structure Sha2 (w : Nat) where
  init  : Sha2Words w
  ks    : List (BitVec w)
  bsig0 : BitVec w → BitVec w
  bsig1 : BitVec w → BitVec w
  ssig0 : BitVec w → BitVec w
  ssig1 : BitVec w → BitVec w

/-- `W_t` for `t >= 16` (R104, R114). -/
def sha2Next {w : Nat} (p : Sha2 w) (ws : List (BitVec w)) : BitVec w :=
  p.ssig1 (back ws 2) + back ws 7 + p.ssig0 (back ws 15) + back ws 16

/-- One round, with its constant `k` and schedule word `x` (R104, R114). -/
def sha2Round {w : Nat} (p : Sha2 w) (s : Sha2Words w) (k x : BitVec w) : Sha2Words w :=
  let t1 := s.h + p.bsig1 s.e + ch s.e s.f s.g + k + x
  let t2 := p.bsig0 s.a + maj s.a s.b s.c
  { a := t1 + t2, b := s.a, c := s.b, d := s.c, e := s.d + t1, f := s.e, g := s.f, h := s.g }

/-- The rounds over the constants and the schedule words, in step (R104, R114). -/
def sha2Rounds {w : Nat} (p : Sha2 w) : List (BitVec w) → List (BitVec w) → Sha2Words w → Sha2Words w
  | k :: ks, x :: xs, s => sha2Rounds p ks xs (sha2Round p s k x)
  | _, _, s => s

/-- The compression of one block (R104, R114): one round a constant. -/
def sha2Block {w : Nat} (p : Sha2 w) (v : Sha2Words w) (b : List Byte) : Sha2Words w :=
  let r := sha2Rounds p p.ks (schedule (sha2Next p) (p.ks.length - 16) b) v
  { a := v.a + r.a, b := v.b + r.b, c := v.c + r.c, d := v.d + r.d
    e := v.e + r.e, f := v.f + r.f, g := v.g + r.g, h := v.h + r.h }

/-- The hash of a message, with the block size, length field and word width of the function (R105, R115). -/
def sha2 {w : Nat} (p : Sha2 w) (blk lenBytes : Nat) (m : List Byte) : List Byte :=
  let v := (msgBlocks blk lenBytes m).foldl (sha2Block p) p.init
  [v.a, v.b, v.c, v.d, v.e, v.f, v.g, v.h].flatMap fun x => toBE (w / 8) x.toNat

/-- `H0` to `H7` of SHA-256 (R102). -/
def sha256Init : Sha2Words 32 :=
  { a := 0x6a09e667, b := 0xbb67ae85, c := 0x3c6ef372, d := 0xa54ff53a
    e := 0x510e527f, f := 0x9b05688c, g := 0x1f83d9ab, h := 0x5be0cd19 }

/-- `K_0` to `K_63` (R102). -/
def sha256K : List Word :=
  [0x428a2f98, 0x71374491, 0xb5c0fbcf, 0xe9b5dba5, 0x3956c25b, 0x59f111f1, 0x923f82a4, 0xab1c5ed5] ++
  [0xd807aa98, 0x12835b01, 0x243185be, 0x550c7dc3, 0x72be5d74, 0x80deb1fe, 0x9bdc06a7, 0xc19bf174] ++
  [0xe49b69c1, 0xefbe4786, 0x0fc19dc6, 0x240ca1cc, 0x2de92c6f, 0x4a7484aa, 0x5cb0a9dc, 0x76f988da] ++
  [0x983e5152, 0xa831c66d, 0xb00327c8, 0xbf597fc7, 0xc6e00bf3, 0xd5a79147, 0x06ca6351, 0x14292967] ++
  [0x27b70a85, 0x2e1b2138, 0x4d2c6dfc, 0x53380d13, 0x650a7354, 0x766a0abb, 0x81c2c92e, 0x92722c85] ++
  [0xa2bfe8a1, 0xa81a664b, 0xc24b8b70, 0xc76c51a3, 0xd192e819, 0xd6990624, 0xf40e3585, 0x106aa070] ++
  [0x19a4c116, 0x1e376c08, 0x2748774c, 0x34b0bcb5, 0x391c0cb3, 0x4ed8aa4a, 0x5b9cca4f, 0x682e6ff3] ++
  [0x748f82ee, 0x78a5636f, 0x84c87814, 0x8cc70208, 0x90befffa, 0xa4506ceb, 0xbef9a3f7, 0xc67178f2]

/-- SHA-256 (R102, R103). -/
def sha256Params : Sha2 32 where
  init    := sha256Init
  ks      := sha256K
  bsig0 x := rotr x 2 ^^^ rotr x 13 ^^^ rotr x 22
  bsig1 x := rotr x 6 ^^^ rotr x 11 ^^^ rotr x 25
  ssig0 x := rotr x 7 ^^^ rotr x 18 ^^^ (x >>> 3)
  ssig1 x := rotr x 17 ^^^ rotr x 19 ^^^ (x >>> 10)

/-- `SHA256(M)` (R100, R105): 32 bytes. -/
def sha256 (m : List Byte) : List Byte := sha2 sha256Params 64 8 m

end Sys2Proof.Machine
end

