-- ==== Sys2Proof/Machine/Hmac.lean ====
section
/-! DEFINITION. The keyed hash engine and `HMAC` (R120 to R129). -/

namespace Sys2Proof.Machine

/-- `H`, the hash function of an algorithm (R121). -/
def hashFn : HashAlg → List Byte → List Byte
  | .sha1 => sha1
  | .sha256 => sha256
  | .sha512 => sha512

/-- `K0`, the key normalised to one block (R122). -/
def normKey (a : HashAlg) (k : List Byte) : List Byte :=
  let k' := if k.length > blockSize a then hashFn a k else k
  k' ++ List.replicate (blockSize a - k'.length) 0

/-- `HMAC(ALG, K, m)` (R123). -/
def hmac (a : HashAlg) (k m : List Byte) : List Byte :=
  let k0 := normKey a k
  let inner := hashFn a (k0.map (· ^^^ 0x36) ++ m)
  hashFn a (k0.map (· ^^^ 0x5C) ++ inner)

/-- `DIGEST` and `DLEN` loaded with a digest and zeros above it (R28, R127). -/
def putDigest (d : List Byte) (s : State) : State :=
  { s with digest := bufOf _ d, dlen := BitVec.ofNat 32 d.length }

/-- The body of `HMAC` (R127): outputs cleared, the two tests in their order, the digest. -/
def hmacBody (s : State) : Stage :=
  let s := clearDigest s
  match algOf s.alg with
  | none => .raised .unsupportedAlgorithm s
  | some a => if klenOk s then .done (putDigest (hmac a (keyBytes s) (msgBytes s)) s) else .raised .keyTooLong s

/-- `HMAC` (R127). -/
def execHmac (s : State) : Host.Outcome State Fault Refusal := .next (runBody hmacBody s)

end Sys2Proof.Machine
end

