-- ==== Sys2Proof/Machine/Trunc.lean ====
section
/-! DEFINITION. Dynamic truncation and `TRUNC` (R135 to R147). -/

namespace Sys2Proof.Machine

/-- The triple dynamic truncation returns (R141): the offset, `P`, and `P mod 10^g`. -/
structure TruncResult where
  offset : BitVec 4
  p      : BitVec 31
  code   : BitVec 30
  deriving DecidableEq, Repr

/-- The offset: the low four bits of the last byte of a digest of `n` bytes (R136). -/
def truncOffset (d : Buf Config.digestMax) (n : Nat) : BitVec 4 := (bufByte d (n - 1)).setWidth 4

/-- The window `V`: the four bytes at the offset, big-endian (R137). -/
def truncWindow (d : Buf Config.digestMax) (o : Nat) : Word :=
  BitVec.ofNat 32 (beNat [bufByte d o, bufByte d (o + 1), bufByte d (o + 2), bufByte d (o + 3)])

/-- `P`: the window with its sign bit cleared, a 31-bit number (R138). -/
def truncMask (v : Word) : BitVec 31 := (v &&& 0x7FFFFFFF).setWidth 31

/-- `P mod 10^g`, below `2^30` for a legal `g` (R139). -/
def truncReduce (p : BitVec 31) (g : Nat) : BitVec 30 := BitVec.ofNat 30 (p.toNat % 10 ^ g)

/-- `DynTrunc(D, n, g)`, with its three tests in their order (R141). -/
def dynTrunc (d : Buf Config.digestMax) (n g : Word) : Except ErrCode TruncResult :=
  if digestLenOk n then
    let o := truncOffset d n.toNat
    if o.toNat + 4 > n.toNat then .error .truncationOutOfRange
    else
      let p := truncMask (truncWindow d o.toNat)
      if digitsOk g then .ok { offset := o, p := p, code := truncReduce p g.toNat }
      else .error .invalidDigits
  else .error .invalidDigestLength

/-- The four result registers loaded, `CODEDIG` with the width used (R25, R142). -/
def putTrunc (r : TruncResult) (g : Word) (s : State) : State :=
  { s with offset := r.offset, bincode := r.p, codeval := r.code, codedig := g.setWidth 4 }

/-- The body of `TRUNC` (R142): results cleared, then truncation. -/
def truncBody (s : State) : Stage :=
  let s := clearTrunc s
  match dynTrunc s.digest s.dlen s.digits with
  | .error e => .raised e s
  | .ok r => .done (putTrunc r s.digits s)

/-- `TRUNC` (R142). -/
def execTrunc (s : State) : Host.Outcome State Fault Refusal := .next (runBody truncBody s)

end Sys2Proof.Machine
end

