-- ==== Sys2Proof/Machine/Hotp.lean ====
section
/-! DEFINITION. The pipeline command `HOTP` and the housekeeping command `CLEAR` (R160 to R167). -/

namespace Sys2Proof.Machine

/-- The four stages of `HOTP`, the bodies of the four stepwise commands in the order of the data flow, stopping at the first
error (R160, R162). -/
def hotpStages (s : State) : Stage :=
  andThen (andThen (andThen (encodeBody s) hmacBody) truncBody) formatBody

/-- `HOTP` (R160): no error and no code to begin with, the stages, and the scrub whether a stage raised or not. -/
def execHotp (s : State) : Host.Outcome State Fault Refusal :=
  .next (scrub (finish (hotpStages (clearCode (setErr .none s)))))

/-- `CLEAR` (R166): the state after it is the state after reset. -/
def execClear (s : State) : Host.Outcome State Fault Refusal := .next (resetBlock s)

end Sys2Proof.Machine
end

