-- ==== Sys2Proof/WellFormed.lean ====
section
/-! DEFINITION. Which command words are one of the six (R60, R62, R64). A command has no operands, so every term of
`Instr` is well formed; what can be ill formed is the pair of fields of a word. -/

namespace Sys2Proof

/-- `ZERO` must be zero (R60). -/
def CmdFields.zeroOk (f : CmdFields) : Bool := f.zero == 0

/-- `OP` must be one of 1 to 6 (R62). -/
def CmdFields.opOk (f : CmdFields) : Bool := 1 ≤ f.op.toNat && f.op.toNat ≤ 6

/-- The fields of a legal command word (R61, R64). -/
def CmdFields.wellFormed (f : CmdFields) : Bool := f.zeroOk && f.opOk

/-- A command carries no operand that could be out of range (R63). -/
def Instr.wellFormed : Instr → Bool
  | .clear | .encode | .hmac | .trunc | .format | .hotp => true

end Sys2Proof
end

