-- ==== Sys2Proof/Decode.lean ====
section
/-! DEFINITION. The decoder of command words, total and rejecting by name, and the encoder (R60 to R64). The unit of
decoding is the 32-bit word written to `CMD`: there is no instruction fetch and so no byte order of one (R45). -/

namespace Sys2Proof

/-- The fields of a command word: `OP` is bits 3:0, `ZERO` is bits 31:4 (R60). -/
def cmdFields (w : Word) : CmdFields :=
  { zero := w.extractLsb' 4 28, op := w.extractLsb' 0 4 }

/-- The command word of a pair of fields. -/
def cmdWord (f : CmdFields) : Word := f.zero ++ f.op

/-- The command an opcode names (R62). -/
def opInstr (op : BitVec 4) : Option Instr :=
  match op.toNat with
  | 1 => some .clear
  | 2 => some .encode
  | 3 => some .hmac
  | 4 => some .trunc
  | 5 => some .format
  | 6 => some .hotp
  | _ => none

/-- The command a word encodes, or why it encodes none (R61, R64). -/
def decode (w : Word) : Except DecodeError Instr :=
  let f := cmdFields w
  if f.zero = 0 then
    match opInstr f.op with
    | some i => .ok i
    | none => .error (.reservedOpcode f.op)
  else .error .zeroFieldSet

/-- The opcode of a command (R62). -/
def opcode : Instr → BitVec 4
  | .clear => 1
  | .encode => 2
  | .hmac => 3
  | .trunc => 4
  | .format => 5
  | .hotp => 6

/-- The word of a command (R62): its opcode, with `ZERO` zero. -/
def encode (i : Instr) : Word := cmdWord { zero := 0, op := opcode i }

/-- The command word whose low `nbits` bits are those of `w` and whose other bits are zero. -/
def tableWord (nbits w : Nat) : Word := BitVec.ofNat 32 (w % 2 ^ nbits)

/-- What the decoder reads from a row of the opcode table: the table's bits are the bits of the command word. -/
def decodeTableWord (nbits w : Nat) : Option Instr := (decode (tableWord nbits w)).toOption

end Sys2Proof
end

