-- ==== Sys2Proof/Machine/Flags.lean ====
section
/-! DEFINITION. `STATUS`: the numbers of the error values, the `INTERNAL` bit and the word a read returns (R15, R66, R192).
The block has no other flags (R31). -/

namespace Sys2Proof.Machine

/-- The code of an error value (R66). -/
def errCode : ErrCode → Byte
  | .none => 0
  | .invalidSecret => 1
  | .invalidDigestLength => 2
  | .truncationOutOfRange => 3
  | .invalidStep => 4
  | .unsupportedAlgorithm => 5
  | .invalidDigits => 6
  | .keyTooLong => 7
  | .illegalCommand => 8

/-- The error value of a code; 9 to 255 are never produced (R66). -/
def errOfCode (c : Byte) : Option ErrCode :=
  match c.toNat with
  | 0 => some .none
  | 1 => some .invalidSecret
  | 2 => some .invalidDigestLength
  | 3 => some .truncationOutOfRange
  | 4 => some .invalidStep
  | 5 => some .unsupportedAlgorithm
  | 6 => some .invalidDigits
  | 7 => some .keyTooLong
  | 8 => some .illegalCommand
  | _ => none

/-- `STATUS.INTERNAL`: the error is an internal invariant violation (R15, R192). -/
def errInternal : ErrCode → Bool
  | .invalidDigestLength | .truncationOutOfRange => true
  | .none | .invalidSecret | .invalidStep | .unsupportedAlgorithm | .invalidDigits | .keyTooLong | .illegalCommand => false

/-- `STATUS` as a read returns it: `ERR` in bits 7:0, `INTERNAL` in bit 8, zero above (R15). -/
def statusWord (e : ErrCode) : Word := (0 : BitVec 23) ++ BitVec.ofBool (errInternal e) ++ errCode e

end Sys2Proof.Machine
end

