-- ==== Sys2Proof/Machine/Port.lean ====
section
/-! DEFINITION. The host port: the register map (R30), read and write transactions (R41, R42, R48), reset (R55, R210) and
the acceptance of a command (R44, R61). -/

namespace Sys2Proof.Machine

/-- The register at a byte offset of the window (R30). -/
def regAtOffset (off : Nat) : PortReg :=
  if off = 0x000 then .id
  else if off = 0x004 then .cmd
  else if off = 0x008 then .status
  else if off = 0x00C then .alg
  else if off = 0x010 then .digits
  else if off = 0x014 then .klen
  else if off = 0x018 then .counterLo
  else if off = 0x01C then .counterHi
  else if 0x020 ≤ off ∧ off < 0x028 then .msgW ((off - 0x020) / 4)
  else if off = 0x028 then .dlen
  else if off = 0x02C then .offset
  else if off = 0x030 then .bincode
  else if off = 0x034 then .codeval
  else if off = 0x038 then .codedig
  else if off = 0x03C then .codelen
  else if 0x040 ≤ off ∧ off < 0x04C then .codeW ((off - 0x040) / 4)
  else if 0x080 ≤ off ∧ off < 0x0C0 then .digestW ((off - 0x080) / 4)
  else if 0x100 ≤ off ∧ off < 0x200 then .keyW ((off - 0x100) / 4)
  else .reserved off

/-- The register at a word address: its byte offset is four times the address (R40, R47). -/
def regAt (a : PortAddr) : PortReg := regAtOffset (4 * a.toNat)

/-- The byte offset of a register (R30). -/
def regOffset : PortReg → Nat
  | .id => 0x000
  | .cmd => 0x004
  | .status => 0x008
  | .alg => 0x00C
  | .digits => 0x010
  | .klen => 0x014
  | .counterLo => 0x018
  | .counterHi => 0x01C
  | .msgW w => 0x020 + 4 * w
  | .dlen => 0x028
  | .offset => 0x02C
  | .bincode => 0x030
  | .codeval => 0x034
  | .codedig => 0x038
  | .codelen => 0x03C
  | .codeW w => 0x040 + 4 * w
  | .digestW w => 0x080 + 4 * w
  | .keyW w => 0x100 + 4 * w
  | .reserved off => off

/-- The word address of a register. -/
def regAddr (r : PortReg) : PortAddr := BitVec.ofNat Config.addrBits (regOffset r / 4)

/-- What a read of a register returns (R30, R41): zero for `CMD`, for every `KEY` word and for a reserved offset. -/
def readReg (r : PortReg) (s : State) : Word :=
  match r with
  | .id => Config.idWord
  | .cmd => 0
  | .status => statusWord s.err
  | .alg => s.alg
  | .digits => s.digits
  | .klen => s.klen
  | .counterLo => s.counter.extractLsb' 0 32
  | .counterHi => s.counter.extractLsb' 32 32
  | .msgW w => bufWord s.msg w
  | .dlen => s.dlen
  | .offset => s.offset.setWidth 32
  | .bincode => s.bincode.setWidth 32
  | .codeval => s.codeval.setWidth 32
  | .codedig => s.codedig.setWidth 32
  | .codelen => s.codelen.setWidth 32
  | .codeW w => bufWord s.code w
  | .digestW w => bufWord s.digest w
  | .keyW _ => 0
  | .reserved _ => 0

/-- What a write to a register other than `CMD` does (R42): a read-write register takes the word, unmasked (R12), a buffer
word takes its four bytes (R46), and a read-only or reserved one ignores it (R48). -/
def writeReg (r : PortReg) (v : Word) (s : State) : State :=
  match r with
  | .alg => { s with alg := v }
  | .digits => { s with digits := v }
  | .klen => { s with klen := v }
  | .counterLo => { s with counter := s.counter.extractLsb' 32 32 ++ v }
  | .counterHi => { s with counter := v ++ s.counter.extractLsb' 0 32 }
  | .dlen => { s with dlen := v }
  | .digestW w => { s with digest := bufSetWord s.digest w v }
  | .keyW w => { s with key := bufSetWord s.key w v }
  | .id | .cmd | .status | .msgW _ | .offset | .bincode | .codeval | .codedig | .codelen | .codeW _ | .reserved _ => s

/-- The port's outputs at the end of a step. -/
def setOut (o : PortOut) (s : State) : State := { s with out := o }

/-- The next input of the host, taken off the list (log 1). -/
def setInbox (l : List PortIn) (s : State) : State := { s with inbox := l }

/-- What the input pins ask for: `rst` comes before `req`, so a transaction presented under reset is abandoned (R55, R210);
`wdata` is ignored on a read (R40). -/
inductive PortEvent where
  | reset
  | idle
  | read (a : PortAddr)
  | write (a : PortAddr) (v : Word)
  deriving DecidableEq, Repr

/-- The event on the input pins (R40, R41, R42, R55). -/
def portEvent (p : PortIn) : PortEvent :=
  if p.rst then .reset
  else if p.req then if p.we then .write p.addr p.wdata else .read p.addr
  else .idle

/-- What a step does: it ends in a state, or it runs a command on a state (R61). -/
inductive Action where
  | done (s : State)
  | run (i : Instr) (s : State)

/-- The action of a write to `CMD` (R61, R64): the command the word encodes, or IllegalCommand and nothing else. -/
def cmdAction (w : Word) (s : State) : Action :=
  match decode w with
  | .ok i => .run i s
  | .error _ => .done (raiseErr .illegalCommand s)

/-- The action of an event: reset (R210), idle holding the state (R205), a read (R41), a write (R42), a command (R61). The
acknowledge of a write belongs to the same atomic step as its effect (R44). -/
def eventAction (e : PortEvent) (s : State) : Action :=
  match e with
  | .reset => .done (setOut .noAck (resetBlock s))
  | .idle => .done (setOut .noAck s)
  | .read a => .done (setOut (.ackRead (readReg (regAt a) s)) s)
  | .write a v =>
    match regAt a with
    | .cmd => cmdAction v (setOut .ackWrite s)
    | r => .done (writeReg r v (setOut .ackWrite s))

/-- The action of the next step: that of the host's next input; with none, the port is idle (R205). -/
def nextAction (s : State) : Action :=
  match s.inbox with
  | [] => eventAction .idle s
  | p :: rest => eventAction (portEvent p) (setInbox rest s)

/-- The pins of a write transaction. -/
def pinsWrite (a : PortAddr) (v : Word) : PortIn := { rst := false, req := true, we := true, addr := a, wdata := v }

/-- The pins of a read transaction. -/
def pinsRead (a : PortAddr) : PortIn := { rst := false, req := true, we := false, addr := a, wdata := 0 }

/-- The state with an input put before the host's coming ones. -/
def present (p : PortIn) (s : State) : State := setInbox (p :: s.inbox) s

/-- OPEN (R6, R43, R224; log 3): the clock cycles until `ack` of a command written in a state. -/
def ackDelay (i : Instr) (s : State) : Nat := Config.latency (opcode i) s.alg s.klen

end Sys2Proof.Machine
end

