-- ==== Sys2Proof/Machine/Step.lean ====
section
/-! DEFINITION. One step: one port transaction, or one idle or reset cycle (R44, R50). -/

namespace Sys2Proof.Machine

/-- One step of the block: the host's next input takes effect whole, and where it is a `CMD` write of a command word the
command runs to completion in it (R44). -/
def step (s : State) : Host.Outcome State Fault Refusal :=
  match nextAction s with
  | .done t => .next t
  | .run i t => exec i t

/-- The state in which the very next step runs the command word of a row of the opcode table: a write of it to `CMD` is the
host's next transaction (log 1). -/
def State.withFetchWord (s : State) (nbits w : Nat) : State :=
  present (pinsWrite Config.cmdAddr (tableWord nbits w)) s

end Sys2Proof.Machine
end

