-- ==== Sys2Proof/Machine/Script.lean ====
section
/-! DEFINITION. Host scripts (R68): lines, each one port transaction, and the pseudo-operations that expand to lines. A
script is what a host may put on the port; no step depends on this file. -/

namespace Sys2Proof.Machine

/-- A line of a script: `WR <offset>, <value>` or `RD <offset>`, with the offset as the word address it puts on the port. -/
inductive Line where
  | wr (a : PortAddr) (v : Word)
  | rd (a : PortAddr)
  deriving DecidableEq, Repr

/-- The encoding of a line: the transaction it puts on the port (R68). -/
def linePins : Line → PortIn
  | .wr a v => pinsWrite a v
  | .rd a => pinsRead a

/-- A register name standing for its offset in a `WR` line (R68). -/
def wrReg (r : PortReg) (v : Word) : Line := .wr (regAddr r) v

/-- A register name standing for its offset in an `RD` line (R68). -/
def rdReg (r : PortReg) : Line := .rd (regAddr r)

/-- `CLEAR` to `HOTP`: a write of the command's word to `CMD` (R68). -/
def cmdLine (i : Instr) : Line := wrReg .cmd (encode i)

/-- `LDCTR c` (R68). -/
def ldctr (c : DWord) : List Line :=
  [wrReg .counterLo (c.extractLsb' 0 32), wrReg .counterHi (c.extractLsb' 32 32)]

/-- Word `w` of a byte sequence as the port carries it, missing bytes as `00` (R46, R68). -/
def packWord (l : List Byte) (w : Nat) : Word := bufWord (bufOf 4 (l.drop (4 * w))) 0

/-- How many words carry a byte sequence: its length over four, rounded up (R68). -/
def wordCount (l : List Byte) : Nat := (l.length + 3) / 4

/-- `LDKEY k`, for a key of at most 256 bytes (R68); beyond that no line is defined, and none is used (log 16). -/
def ldkey (k : List Byte) : List Line :=
  (List.range (wordCount k)).map (fun w => wrReg (.keyW w) (packWord k w)) ++
    [wrReg .klen (BitVec.ofNat 32 k.length)]

/-- `LDDIG d` (R68): at most sixteen words are written, and then the length. DESIGN CHOICE (log 16): a `WR` value is a `u32`,
and R68 puts no bound on `d`; the length of a sequence of `2^32` bytes or more is written modulo `2^32`. -/
def lddig (d : List Byte) : List Line :=
  (List.range (min 16 (wordCount d))).map (fun w => wrReg (.digestW w) (packWord d w)) ++
    [wrReg .dlen (BitVec.ofNat 32 d.length)]

/-- `RDCODE` (R68). -/
def rdcode : List Line := [rdReg .codelen, rdReg (.codeW 0), rdReg (.codeW 1), rdReg (.codeW 2)]

/-- The four bytes of a port word, lane 0 first (R46). -/
def unpackWord (v : Word) : List Byte := [laneByte v 0, laneByte v 1, laneByte v 2, laneByte v 3]

/-- The code that the four words read by `RDCODE` give: the first `CODELEN` bytes (R68). -/
def codeOf (ws : List Word) : List Byte :=
  match ws with
  | len :: rest => (rest.flatMap unpackWord).take len.toNat
  | [] => []

/-- The data of an acknowledged read. -/
def readData : PortOut → List Word
  | .ackRead v => [v]
  | .noAck | .ackWrite => []

/-- A state after a line, and what the line read. No step stops (R199); a stop would end the script where it is. -/
def runLine (l : Line) (s : State) : State × List Word :=
  match step (present (linePins l) s) with
  | .next t => (t, readData t.out)
  | .fault _ | .refused _ => (s, [])

/-- A state after the lines of a script, and the words its `RD` lines read, in order (R50, R68). -/
def runScript : List Line → State → State × List Word
  | [], s => (s, [])
  | l :: ls, s =>
    let r := runLine l s
    let q := runScript ls r.1
    (q.1, r.2 ++ q.2)

end Sys2Proof.Machine
end

