-- ==== Sys2Proof/Machine/Wrapper.lean ====
section
/-! DEFINITION. The wrapper software at the block's boundary (R175 to R182): the Base32 decoder, the TOTP counter and the two
public entry points, as a host program over the port. Nothing here is inside the block (R4), and no step depends on it. -/

namespace Sys2Proof.Machine

/-- The value of a character of the Base32 alphabet: `A` to `Z` are 0 to 25, `2` to `7` are 26 to 31 (R177). -/
def base32Value (c : Char) : Option Nat :=
  if 65 ≤ c.toNat ∧ c.toNat ≤ 90 then some (c.toNat - 65)
  else if 50 ≤ c.toNat ∧ c.toNat ≤ 55 then some (c.toNat - 24)
  else none

/-- The values of the characters of a text, unless one is outside the alphabet. -/
def base32Values : List Char → Option (List Nat)
  | [] => some []
  | c :: cs =>
    match base32Value c, base32Values cs with
    | some v, some vs => some (v :: vs)
    | _, _ => none

/-- A length no byte sequence produces (R177). -/
def base32LengthBad (n : Nat) : Bool := n % 8 == 1 || n % 8 == 3 || n % 8 == 6

/-- The Base32 decoder (R175, R177): five bits a character, most significant first, cut into bytes from the left and the
remaining bits discarded. `none` is `InvalidSecret`. What the source does not classify is left open (log 9). -/
def base32Decode (t : List Char) : Option (List Byte) :=
  match base32Values t with
  | none => none
  | some vs =>
    let n := vs.length
    let bits := vs.foldl (fun acc v => acc * 32 + v) 0
    let spare := 5 * n % 8
    if base32LengthBad n then none
    else if n == 0 && !Config.base32EmptyAccepted then none
    else if bits % 2 ^ spare != 0 && !Config.base32TailAccepted then none
    else some (toBE (5 * n / 8) (bits / 2 ^ spare))

/-- The TOTP counter, `now div step`; a step of zero is `InvalidStep` and no division is made (R179). -/
def totpCounter (now stp : DWord) : Except ErrCode DWord :=
  if stp = 0 then .error .invalidStep else .ok (now / stp)

/-- The operand loads and the command of `generate_hotp`, from `LDKEY` to the read of `STATUS` (R178). -/
def hotpScript (k : List Byte) (counter : DWord) (digits tag : Word) : List Line :=
  ldkey k ++ ldctr counter ++ [wrReg .alg tag, wrReg .digits digits, cmdLine .hotp, rdReg .status]

/-- The error a read of `STATUS` names in bits 7:0 (R178). -/
def statusErr (ws : List Word) : Option ErrCode := errOfCode ((ws.headD 0).extractLsb' 0 8)

/-- The wrapper's use of the block for one decoded key (R178): the result, and the block's state after it. -/
def hotpCall (k : List Byte) (counter : DWord) (digits tag : Word) (s : State) :
    Except ErrCode (List Byte) × State :=
  if k.length > Config.keyMax then (.error .keyTooLong, s)
  else
    let r := runScript (hotpScript k counter digits tag) s
    match statusErr r.2 with
    | some .none =>
      let q := runScript rdcode r.1
      (.ok (codeOf q.2), q.1)
    | some e => (.error e, r.1)
    | none => (.error .illegalCommand, r.1)

/-- `generate_hotp` with the value the wrapper writes to `ALG` (R178): a secret that does not decode touches nothing (R176). -/
def generateHotpTag (secret : List Char) (counter : DWord) (digits tag : Word) (s : State) :
    Except ErrCode (List Byte) × State :=
  match base32Decode secret with
  | none => (.error .invalidSecret, s)
  | some k => hotpCall k counter digits tag s

/-- `generate_totp` with the value the wrapper writes to `ALG` (R180): the two checks in the order that is left open (R181;
log 8), then as `generate_hotp`. DESIGN CHOICE (log 15): R180 goes on from `LDKEY`, past R178's test of the key's length, and
R68 defines `LDKEY` up to 256 bytes only; here a longer key meets R178's test too, so it is KeyTooLong and nothing is touched. -/
def generateTotpTag (secret : List Char) (stp : DWord) (digits tag : Word) (now : DWord) (s : State) :
    Except ErrCode (List Byte) × State :=
  match base32Decode secret, totpCounter now stp with
  | some k, .ok c => hotpCall k c digits tag s
  | some _, .error e => (.error e, s)
  | none, .ok _ => (.error .invalidSecret, s)
  | none, .error e => (.error (if Config.wrapperStepFirst then e else .invalidSecret), s)

/-- `generate_hotp` (R178). -/
def generateHotp (secret : List Char) (counter : DWord) (digits : Word) (a : HashAlg) (s : State) :
    Except ErrCode (List Byte) × State := generateHotpTag secret counter digits (algTag a) s

/-- `generate_totp` (R180). -/
def generateTotp (secret : List Char) (stp : DWord) (digits : Word) (a : HashAlg) (now : DWord) (s : State) :
    Except ErrCode (List Byte) × State := generateTotpTag secret stp digits (algTag a) now s

/-- The `ALG` value for what the host binding hands the wrapper: the tag of a member of the enumeration, and 0 for a tag that
is none of the three, which lets the block raise UnsupportedAlgorithm (R182; log 10). -/
def bindingTag : Option HashAlg → Word
  | some a => algTag a
  | none => 0

/-- `generate_hotp` behind the host binding, whose tag need not be a member of the enumeration (R182). DESIGN CHOICE (log 10):
R182 gives no order against the wrapper's other checks; here a malformed secret or a key above 256 bytes wins over the tag. -/
def generateHotpBound (secret : List Char) (counter : DWord) (digits : Word) (a : Option HashAlg) (s : State) :
    Except ErrCode (List Byte) × State := generateHotpTag secret counter digits (bindingTag a) s

/-- `generate_totp` behind the host binding (R182). DESIGN CHOICE (log 10): a malformed secret, a zero step or a key above 256
bytes wins over a foreign tag. -/
def generateTotpBound (secret : List Char) (stp : DWord) (digits : Word) (a : Option HashAlg) (now : DWord) (s : State) :
    Except ErrCode (List Byte) × State := generateTotpTag secret stp digits (bindingTag a) now s

end Sys2Proof.Machine
end

