-- ==== Sys2Proof/Safety.lean ====
section
/-! DEFINITION. What counts as a good state and a good run, in the terms the statements use (R34, R199). -/

namespace Sys2Proof

open Machine

/-- The invariants R34 gives of every reachable state, one field each, in R34's order. -/
structure Inv (s : State) : Prop where
  /-- `STATUS.ERR` is one of 0, 2, 5, 6, 7, 8. -/
  errReachable : s.err = .none ∨ s.err = .invalidDigestLength ∨ s.err = .unsupportedAlgorithm ∨
    s.err = .invalidDigits ∨ s.err = .keyTooLong ∨ s.err = .illegalCommand
  /-- `STATUS.INTERNAL` is 1 exactly when `ERR` is 2 or 3. -/
  internalBit : (readReg .status s).getLsbD 8 = true ↔ (errCode s.err = 2 ∨ errCode s.err = 3)
  offsetLe : (readReg .offset s).toNat ≤ 15
  bincodeLt : (readReg .bincode s).toNat < 2 ^ 31
  codedigLe : s.codedig.toNat ≤ 9
  codevalLt : s.codeval.toNat < 10 ^ s.codedig.toNat
  codevalEq : 0 < s.codedig.toNat → s.codeval.toNat = s.bincode.toNat % 10 ^ s.codedig.toNat
  codelenLe : s.codelen.toNat ≤ 9
  codeDigit : ∀ i, i < s.codelen.toNat → 0x30 ≤ (bufByte s.code i).toNat ∧ (bufByte s.code i).toNat ≤ 0x39
  codeZero : ∀ i, s.codelen.toNat ≤ i → i < 12 → bufByte s.code i = 0

/-- The states a run can show: from reset, by steps, the host presenting whatever it likes at any time (R34, R223). -/
inductive Reachable : State → Prop where
  | reset : Reachable State.reset
  | host (l : List PortIn) {s : State} : Reachable s → Reachable (setInbox l s)
  | step {s t : State} : Reachable s → Machine.step s = .next t → Reachable t

/-- `ALG` holds none of the three tags (R65). -/
def UnsupportedTag (s : State) : Prop := s.alg ≠ 1 ∧ s.alg ≠ 2 ∧ s.alg ≠ 3

/-- `DLEN` is none of the three digest lengths (R135). -/
def BadDigestLength (s : State) : Prop := s.dlen ≠ 20 ∧ s.dlen ≠ 32 ∧ s.dlen ≠ 64

/-- `DIGITS` is not in 1 to 9 (R140). -/
def BadDigits (s : State) : Prop := s.digits.toNat < 1 ∨ 9 < s.digits.toNat

/-- The first eighty primes, 2 to 409, whose roots give the constants of SHA-256 and SHA-512 (R102, R112). -/
def firstPrimes : List Nat :=
  (List.range 410).filter fun q => 2 ≤ q && (List.range q).all fun d => d < 2 || q % d != 0

/-- Is `x` the first `bits` bits of the fractional part of the `r`-th root of `q` (R102, R112)? `c` is the whole part. -/
def IsRootFraction (r bits q x : Nat) : Prop :=
  ∃ c, c < q ∧ (c * 2 ^ bits + x) ^ r ≤ q * 2 ^ (r * bits) ∧ q * 2 ^ (r * bits) < (c * 2 ^ bits + x + 1) ^ r

/-- The port's side of a state once a transaction has been taken and acknowledged as a write (R44). -/
def accepted (rest : List PortIn) (s : State) : State := { s with inbox := rest, out := .ackWrite }

end Sys2Proof
end

