-- ==== Sys2Proof/Certificates/Slice0/Obligations.lean ====
section
/-! DEFINITION. The statements about the block, taken from the numbered rules of the spec. Where one names `inbox` or `out`,
these are the model's own fields for the pins of the port (log 1, log 2): the rules speak of the transaction, the acknowledge
and the word read. -/

open Sys2Proof Sys2Proof.Machine

/-! ## Encoding -/

/-- R60, R62, R64: decoding undoes encoding, each command has one word, and every other word is refused by name. -/
def Obligations.DecodeEncodeAgree : Prop :=
  (∀ i : Instr, decode (encode i) = .ok i) ∧
  (∀ (w : Word) (i : Instr), decode w = .ok i → w = encode i) ∧
  (∀ w : Word, decode w = .error .zeroFieldSet ↔ w.extractLsb' 4 28 ≠ 0) ∧
  (∀ (w : Word) (op : BitVec 4), decode w = .error (.reservedOpcode op) ↔
    w.extractLsb' 4 28 = 0 ∧ w.extractLsb' 0 4 = op ∧ (op.toNat < 1 ∨ 6 < op.toNat))

/-- R62, R64: the six words of the opcode table, and words beside them. -/
def Obligations.CommandWordsDecode : Prop :=
  decode 0x00000001 = .ok .clear ∧ decode 0x00000002 = .ok .encode ∧ decode 0x00000003 = .ok .hmac ∧
  decode 0x00000004 = .ok .trunc ∧ decode 0x00000005 = .ok .format ∧ decode 0x00000006 = .ok .hotp ∧
  decode 0x00000000 = .error (.reservedOpcode 0) ∧ decode 0x00000007 = .error (.reservedOpcode 7) ∧
  decode 0x0000000F = .error (.reservedOpcode 15) ∧ decode 0x00000016 = .error .zeroFieldSet ∧
  decode 0x80000001 = .error .zeroFieldSet

/-- R61, R44: a step whose input is a write of a word to `CMD` is the command the word decodes to, run on the state with the
transaction taken and acknowledged; a word that decodes to none records IllegalCommand. -/
def Obligations.CmdWriteRunsDecodedCommand : Prop :=
  ∀ (s : State) (w : Word) (rest : List PortIn), s.inbox = pinsWrite Config.cmdAddr w :: rest →
    (∀ i, decode w = .ok i → step s = exec i (accepted rest s)) ∧
    (∀ e, decode w = .error e → step s = .next { accepted rest s with err := .illegalCommand })

/-- R64: a word other than the six sets `STATUS.ERR` to 8 and changes nothing else of the block. -/
def Obligations.IllegalWordOnlySetsErr : Prop :=
  ∀ (s : State) (w : Word) (rest : List PortIn), s.inbox = pinsWrite Config.cmdAddr w :: rest →
    (w.toNat < 1 ∨ 6 < w.toNat) →
    step s = .next { accepted rest s with err := .illegalCommand } ∧ errCode .illegalCommand = 8

/-! ## All commands -/

/-- R199: every command and every step has exactly one next state, in every state. -/
def Obligations.EveryStepHasOneNextState : Prop :=
  (∀ (i : Instr) (s : State), ∃! t, exec i s = .next t) ∧ (∀ s : State, ∃! t, step s = .next t)

/-- R62 (the column "writes"), R16, R17, R19, R26: what each command leaves alone. -/
def Obligations.CommandsWriteOnlyTheirRegisters : Prop :=
  ∀ (i : Instr) (s t : State), exec i s = .next t →
    (t.inbox = s.inbox ∧ t.out = s.out) ∧
    (i ≠ .clear → t.alg = s.alg ∧ t.digits = s.digits ∧ t.counter = s.counter) ∧
    (i ≠ .clear → i ≠ .hotp → t.key = s.key ∧ t.klen = s.klen) ∧
    (i ≠ .clear → i ≠ .hotp → i ≠ .encode → t.msg = s.msg) ∧
    (i ≠ .clear → i ≠ .hotp → i ≠ .hmac → t.digest = s.digest ∧ t.dlen = s.dlen) ∧
    (i ≠ .clear → i ≠ .hotp → i ≠ .trunc →
      t.offset = s.offset ∧ t.bincode = s.bincode ∧ t.codeval = s.codeval ∧ t.codedig = s.codedig) ∧
    (i ≠ .clear → i ≠ .hotp → i ≠ .format → t.code = s.code ∧ t.codelen = s.codelen)

/-- R31: no command reads `STATUS`, so no result depends on an earlier command's error. -/
def Obligations.NoCommandReadsStatus : Prop :=
  ∀ (i : Instr) (s : State) (e : ErrCode), exec i { s with err := e } = exec i s

/-- R190, R193: which error each command reports, the first failing test winning; an illegal word runs no test. -/
def Obligations.CommandErrorsAndPriority : Prop :=
  (∀ s t : State, exec .clear s = .next t ∨ exec .encode s = .next t ∨ exec .format s = .next t → t.err = .none) ∧
  (∀ s t : State, exec .hmac s = .next t →
    (UnsupportedTag s → t.err = .unsupportedAlgorithm) ∧
    (¬UnsupportedTag s → 256 < s.klen.toNat → t.err = .keyTooLong) ∧
    (¬UnsupportedTag s → s.klen.toNat ≤ 256 → t.err = .none)) ∧
  (∀ s t : State, exec .trunc s = .next t →
    (BadDigestLength s → t.err = .invalidDigestLength) ∧
    (¬BadDigestLength s → BadDigits s → t.err = .invalidDigits) ∧
    (¬BadDigestLength s → ¬BadDigits s → t.err = .none)) ∧
  (∀ s t : State, exec .hotp s = .next t →
    (UnsupportedTag s → t.err = .unsupportedAlgorithm) ∧
    (¬UnsupportedTag s → 256 < s.klen.toNat → t.err = .keyTooLong) ∧
    (¬UnsupportedTag s → s.klen.toNat ≤ 256 → BadDigits s → t.err = .invalidDigits) ∧
    (¬UnsupportedTag s → s.klen.toNat ≤ 256 → ¬BadDigits s → t.err = .none)) ∧
  (∀ (s t : State) (w : Word) (rest : List PortIn), s.inbox = pinsWrite Config.cmdAddr w :: rest →
    (w.toNat < 1 ∨ 6 < w.toNat) → step s = .next t → t.err = .illegalCommand)

/-- R15, R66, R192: the fields of `STATUS` as a read returns them, and the number of each error value. -/
def Obligations.StatusWordFields : Prop :=
  (∀ s : State,
    (readReg .status s).extractLsb' 0 8 = errCode s.err ∧
    ((readReg .status s).extractLsb' 8 1 = 1 ↔ (errCode s.err = 2 ∨ errCode s.err = 3)) ∧
    (readReg .status s).extractLsb' 9 23 = 0) ∧
  errCode .none = 0 ∧ errCode .invalidSecret = 1 ∧ errCode .invalidDigestLength = 2 ∧
  errCode .truncationOutOfRange = 3 ∧ errCode .invalidStep = 4 ∧ errCode .unsupportedAlgorithm = 5 ∧
  errCode .invalidDigits = 6 ∧ errCode .keyTooLong = 7 ∧ errCode .illegalCommand = 8

/-- R7: the rotations, and `BE` and `toBE` as inverses of each other. -/
def Obligations.NotationPrimitives : Prop :=
  (∀ (w n : Nat) (x : BitVec w), 0 < n → n < w →
    (rotl x n).toNat = (x.toNat * 2 ^ n % 2 ^ w ||| x.toNat / 2 ^ (w - n)) ∧
    (rotr x n).toNat = (x.toNat / 2 ^ n ||| x.toNat * 2 ^ (w - n) % 2 ^ w)) ∧
  (∀ a b c d : Byte, beNat [a, b, c, d] = a.toNat * 2 ^ 24 + b.toNat * 2 ^ 16 + c.toNat * 2 ^ 8 + d.toNat) ∧
  (∀ (l : List Byte) (b : Byte), beNat (l ++ [b]) = 2 ^ 8 * beNat l + b.toNat) ∧
  (∀ n v : Nat, v < 256 ^ n → (toBE n v).length = n ∧ beNat (toBE n v) = v) ∧
  (∀ l : List Byte, toBE l.length (beNat l) = l)

/-! ## The counter encoder -/

/-- R80: the eight bytes of an encoded counter. -/
def Obligations.EncodeCounterBytes : Prop :=
  ∀ c : DWord,
    (encodeCounter c).length = 8 ∧
    (∀ i, i < 8 → (encodeCounter c).getD i 0 = c.extractLsb' (56 - 8 * i) 8) ∧
    encodeCounter c = toBE 8 c.toNat ∧
    beNat (encodeCounter c) = c.toNat

/-- R81: distinct counters give distinct messages, and every 8-byte message is the encoding of exactly one counter. -/
def Obligations.EncodeCounterBijection : Prop :=
  (∀ c c' : DWord, encodeCounter c = encodeCounter c' → c = c') ∧
  (∀ m : List Byte, m.length = 8 → ∃! c : DWord, encodeCounter c = m)

/-- R82: `ENCODE` writes `MSG` and `STATUS.ERR` and nothing else, and twice is the same as once. -/
def Obligations.EncodeCommand : Prop :=
  ∀ s : State, ∃ t, exec .encode s = .next t ∧
    t = { s with err := .none, msg := t.msg } ∧
    (∀ i, i < 8 → bufByte t.msg i = s.counter.extractLsb' (56 - 8 * i) 8) ∧
    exec .encode t = .next t ∧
    (s.counter = 0x0123456789ABCDEF → bufWord t.msg 0 = 0x67452301 ∧ bufWord t.msg 1 = 0xEFCDAB89)

/-! ## The keyed hash engine -/

/-- R91, R101, R111: the padding of a message, with the fewest zero bytes that fill whole blocks, and the blocks it is
cut into; `blk` and `len` are 64 and 8 (SHA-1, SHA-256) or 128 and 16 (SHA-512). Within the bounds of R90, R100 and R110 the
last bytes read back as the length in bits. For a longer message, which the rules do not define and no command hashes, the
length field wraps: that is the model's DESIGN CHOICE (log 14). -/
def Obligations.PaddingFillsWholeBlocks : Prop :=
  ∀ (blk len : Nat) (m : List Byte), (blk = 64 ∧ len = 8) ∨ (blk = 128 ∧ len = 16) →
    ∃ z, padMsg blk len m = m ++ [0x80] ++ List.replicate z 0 ++ toBE len (8 * m.length) ∧
      (m.length + 1 + z + len) % blk = 0 ∧
      (8 * m.length < 256 ^ len → beNat ((padMsg blk len m).drop (m.length + 1 + z)) = 8 * m.length) ∧
      (∀ z', z' < z → (m.length + 1 + z' + len) % blk ≠ 0) ∧
      (msgBlocks blk len m).length = (m.length + 1 + z + len) / blk ∧
      (∀ b ∈ msgBlocks blk len m, b.length = blk) ∧
      (msgBlocks blk len m).flatten = padMsg blk len m

/-- R94: the message schedule of SHA-1. -/
def Obligations.Sha1ScheduleRecurrence : Prop :=
  ∀ b : List Byte, b.length = 64 →
    (schedule sha1Next 64 b).length = 80 ∧
    (∀ t, t < 16 → (schedule sha1Next 64 b).getD t 0 =
      BitVec.ofNat 32 (beNat [b.getD (4 * t) 0, b.getD (4 * t + 1) 0, b.getD (4 * t + 2) 0, b.getD (4 * t + 3) 0])) ∧
    (∀ t, 16 ≤ t → t < 80 →
      (schedule sha1Next 64 b).getD t 0 =
        rotl ((schedule sha1Next 64 b).getD (t - 3) 0 ^^^ (schedule sha1Next 64 b).getD (t - 8) 0 ^^^
          (schedule sha1Next 64 b).getD (t - 14) 0 ^^^ (schedule sha1Next 64 b).getD (t - 16) 0) 1)

/-- R101, R104, R111, R114: the message schedule of SHA-256 and SHA-512, for the functions `p` of either and any number of
words; and the first sixteen words, the big-endian words of the block. -/
def Obligations.Sha2ScheduleRecurrence : Prop :=
  (∀ (w n : Nat) (p : Sha2 w) (b : List Byte),
    (schedule (sha2Next p) n b).length = 16 + n ∧
    (∀ t, t < 16 → (schedule (sha2Next p) n b).getD t 0 = (blockWords w b).getD t 0) ∧
    (∀ t, 16 ≤ t → t < 16 + n →
      (schedule (sha2Next p) n b).getD t 0 =
        p.ssig1 ((schedule (sha2Next p) n b).getD (t - 2) 0) + (schedule (sha2Next p) n b).getD (t - 7) 0 +
          p.ssig0 ((schedule (sha2Next p) n b).getD (t - 15) 0) + (schedule (sha2Next p) n b).getD (t - 16) 0)) ∧
  (∀ b : List Byte, b.length = 64 → ∀ t, t < 16 →
    (blockWords 32 b).getD t 0 =
      BitVec.ofNat 32 (beNat [b.getD (4 * t) 0, b.getD (4 * t + 1) 0, b.getD (4 * t + 2) 0, b.getD (4 * t + 3) 0])) ∧
  (∀ b : List Byte, b.length = 128 → ∀ t, t < 16 →
    (blockWords 64 b).getD t 0 =
      BitVec.ofNat 64 (beNat [b.getD (8 * t) 0, b.getD (8 * t + 1) 0, b.getD (8 * t + 2) 0, b.getD (8 * t + 3) 0,
        b.getD (8 * t + 4) 0, b.getD (8 * t + 5) 0, b.getD (8 * t + 6) 0, b.getD (8 * t + 7) 0]))

/-- R92 to R95: the eighty rounds of SHA-1 on the working words `A` to `E`, with their functions and constants, the final
addition, and the bytes of the result from the chaining values `H` of the blocks. The blocks of a message beyond the bound of
R90 are the model's DESIGN CHOICE (log 14). -/
def Obligations.Sha1Compression : Prop :=
  (∀ (h : Sha1Words) (b : List Byte), ∃ A B C D E : Nat → Word,
    (A 0 = h.a ∧ B 0 = h.b ∧ C 0 = h.c ∧ D 0 = h.d ∧ E 0 = h.e) ∧
    (∀ t, t < 80 →
      A (t + 1) = rotl (A t) 5 +
          (if t < 20 then (B t &&& C t) ^^^ (~~~B t &&& D t)
            else if 40 ≤ t ∧ t < 60 then (B t &&& C t) ^^^ (B t &&& D t) ^^^ (C t &&& D t)
            else B t ^^^ C t ^^^ D t) + E t +
          (if t < 20 then 0x5A827999 else if t < 40 then 0x6ED9EBA1 else if t < 60 then 0x8F1BBCDC else 0xCA62C1D6) +
          (schedule sha1Next 64 b).getD t 0 ∧
      B (t + 1) = A t ∧ C (t + 1) = rotl (B t) 30 ∧ D (t + 1) = C t ∧ E (t + 1) = D t) ∧
    sha1Block h b = { a := h.a + A 80, b := h.b + B 80, c := h.c + C 80, d := h.d + D 80, e := h.e + E 80 }) ∧
  (∀ m : List Byte, ∃ (n : Nat) (H : Nat → Sha1Words),
    n = (msgBlocks 64 8 m).length ∧
    H 0 = { a := 0x67452301, b := 0xEFCDAB89, c := 0x98BADCFE, d := 0x10325476, e := 0xC3D2E1F0 } ∧
    (∀ i, i < n → H (i + 1) = sha1Block (H i) ((msgBlocks 64 8 m).getD i [])) ∧
    sha1 m = toBE 4 (H n).a.toNat ++ toBE 4 (H n).b.toNat ++ toBE 4 (H n).c.toNat ++ toBE 4 (H n).d.toNat ++
      toBE 4 (H n).e.toNat)

/-- R102, R103, R112, R113: the functions and the constants of SHA-256 and SHA-512. The chaining values are the fractional
parts of the square roots of the first eight primes, the round constants those of the cube roots of the first 64 or 80. -/
def Obligations.Sha2Parameters : Prop :=
  (∀ x : BitVec 32,
    sha256Params.bsig0 x = rotr x 2 ^^^ rotr x 13 ^^^ rotr x 22 ∧
    sha256Params.bsig1 x = rotr x 6 ^^^ rotr x 11 ^^^ rotr x 25 ∧
    sha256Params.ssig0 x = rotr x 7 ^^^ rotr x 18 ^^^ x >>> 3 ∧
    sha256Params.ssig1 x = rotr x 17 ^^^ rotr x 19 ^^^ x >>> 10) ∧
  (∀ x : BitVec 64,
    sha512Params.bsig0 x = rotr x 28 ^^^ rotr x 34 ^^^ rotr x 39 ∧
    sha512Params.bsig1 x = rotr x 14 ^^^ rotr x 18 ^^^ rotr x 41 ∧
    sha512Params.ssig0 x = rotr x 1 ^^^ rotr x 8 ^^^ x >>> 7 ∧
    sha512Params.ssig1 x = rotr x 19 ^^^ rotr x 61 ^^^ x >>> 6) ∧
  sha256Params.ks.length = 64 ∧ sha512Params.ks.length = 80 ∧
  (∀ i, i < 64 → IsRootFraction 3 32 (firstPrimes.getD i 0) (sha256Params.ks.getD i 0).toNat) ∧
  (∀ i, i < 80 → IsRootFraction 3 64 (firstPrimes.getD i 0) (sha512Params.ks.getD i 0).toNat) ∧
  (∃ h : List (BitVec 32), h.length = 8 ∧
    sha256Params.init =
      { a := h.getD 0 0, b := h.getD 1 0, c := h.getD 2 0, d := h.getD 3 0
        e := h.getD 4 0, f := h.getD 5 0, g := h.getD 6 0, h := h.getD 7 0 } ∧
    ∀ i, i < 8 → IsRootFraction 2 32 (firstPrimes.getD i 0) (h.getD i 0).toNat) ∧
  (∃ h : List (BitVec 64), h.length = 8 ∧
    sha512Params.init =
      { a := h.getD 0 0, b := h.getD 1 0, c := h.getD 2 0, d := h.getD 3 0
        e := h.getD 4 0, f := h.getD 5 0, g := h.getD 6 0, h := h.getD 7 0 } ∧
    ∀ i, i < 8 → IsRootFraction 2 64 (firstPrimes.getD i 0) (h.getD i 0).toNat)

/-- R104, R105, R114, R115: the rounds of SHA-256 and SHA-512 on the working words `A` to `H`, one a round constant, the final
addition, and the bytes of the result from the chaining values `V` of the blocks. The blocks of a message beyond the bounds of
R100 and R110 are the model's DESIGN CHOICE (log 14). -/
def Obligations.Sha2Compression : Prop :=
  (∀ (w : Nat) (p : Sha2 w) (v : Sha2Words w) (b : List Byte), 16 ≤ p.ks.length →
    ∃ A B C D E F G H : Nat → BitVec w,
      (A 0 = v.a ∧ B 0 = v.b ∧ C 0 = v.c ∧ D 0 = v.d ∧ E 0 = v.e ∧ F 0 = v.f ∧ G 0 = v.g ∧ H 0 = v.h) ∧
      (∀ t, t < p.ks.length → ∃ T₁ T₂ : BitVec w,
        T₁ = H t + p.bsig1 (E t) + ((E t &&& F t) ^^^ (~~~E t &&& G t)) + p.ks.getD t 0 +
          (schedule (sha2Next p) (p.ks.length - 16) b).getD t 0 ∧
        T₂ = p.bsig0 (A t) + ((A t &&& B t) ^^^ (A t &&& C t) ^^^ (B t &&& C t)) ∧
        H (t + 1) = G t ∧ G (t + 1) = F t ∧ F (t + 1) = E t ∧ E (t + 1) = D t + T₁ ∧
        D (t + 1) = C t ∧ C (t + 1) = B t ∧ B (t + 1) = A t ∧ A (t + 1) = T₁ + T₂) ∧
      sha2Block p v b =
        { a := v.a + A p.ks.length, b := v.b + B p.ks.length, c := v.c + C p.ks.length, d := v.d + D p.ks.length
          e := v.e + E p.ks.length, f := v.f + F p.ks.length, g := v.g + G p.ks.length, h := v.h + H p.ks.length }) ∧
  (∀ (w blk len : Nat) (p : Sha2 w) (m : List Byte), ∃ (n : Nat) (V : Nat → Sha2Words w),
    n = (msgBlocks blk len m).length ∧ V 0 = p.init ∧
    (∀ i, i < n → V (i + 1) = sha2Block p (V i) ((msgBlocks blk len m).getD i [])) ∧
    sha2 p blk len m =
      toBE (w / 8) (V n).a.toNat ++ toBE (w / 8) (V n).b.toNat ++ toBE (w / 8) (V n).c.toNat ++
        toBE (w / 8) (V n).d.toNat ++ toBE (w / 8) (V n).e.toNat ++ toBE (w / 8) (V n).f.toNat ++
        toBE (w / 8) (V n).g.toNat ++ toBE (w / 8) (V n).h.toNat) ∧
  (∀ m : List Byte, sha256 m = sha2 sha256Params 64 8 m ∧ sha512 m = sha2 sha512Params 128 16 m)

/-- R125: how many blocks the inner and the outer hash of a keyed hash run over, whatever the bytes, and how many a key
that is hashed first takes. -/
def Obligations.HashBlockCounts : Prop :=
  (∀ m : List Byte, m.length = 64 + 8 → (msgBlocks 64 8 m).length = 2) ∧
  (∀ m : List Byte, m.length = 64 + 20 ∨ m.length = 64 + 32 → (msgBlocks 64 8 m).length = 2) ∧
  (∀ m : List Byte, m.length = 128 + 8 ∨ m.length = 128 + 64 → (msgBlocks 128 16 m).length = 2) ∧
  (∀ k : List Byte, 65 ≤ k.length → k.length ≤ 256 →
    2 ≤ (msgBlocks 64 8 k).length ∧ (msgBlocks 64 8 k).length ≤ 5) ∧
  (∀ k : List Byte, 129 ≤ k.length → k.length ≤ 256 →
    2 ≤ (msgBlocks 128 16 k).length ∧ (msgBlocks 128 16 k).length ≤ 3)

/-- R122: the normalised key is one block; a key above a block is hashed, one at or below is used as it is; and keys that
differ only by trailing zero bytes within a block give the same digest. -/
def Obligations.KeyNormalisation : Prop :=
  ∀ (a : HashAlg) (k : List Byte),
    (normKey a k).length = blockSize a ∧
    (blockSize a < k.length →
      normKey a k = hashFn a k ++ List.replicate (blockSize a - digestLen a) 0) ∧
    (k.length ≤ blockSize a → normKey a k = k ++ List.replicate (blockSize a - k.length) 0) ∧
    (∀ (n : Nat) (m : List Byte), k.length + n ≤ blockSize a → hmac a (k ++ List.replicate n 0) m = hmac a k m)

/-- R121, R123: the keyed hash is the outer hash of the inner hash, over the two padded keys, with the hash function, block
size and output size of the algorithm each tag selects. -/
def Obligations.HmacConstruction : Prop :=
  (∀ (a : HashAlg) (k m : List Byte), ∃ ipad opad : List Byte,
    ipad.length = blockSize a ∧ opad.length = blockSize a ∧
    (∀ i, i < blockSize a → ipad.getD i 0 = (normKey a k).getD i 0 ^^^ 0x36) ∧
    (∀ i, i < blockSize a → opad.getD i 0 = (normKey a k).getD i 0 ^^^ 0x5C) ∧
    hmac a k m = hashFn a (opad ++ hashFn a (ipad ++ m)) ∧ (hmac a k m).length = digestLen a) ∧
  (algOf 1 = some .sha1 ∧ hashFn .sha1 = sha1 ∧ blockSize .sha1 = 64 ∧ digestLen .sha1 = 20) ∧
  (algOf 2 = some .sha256 ∧ hashFn .sha256 = sha256 ∧ blockSize .sha256 = 64 ∧ digestLen .sha256 = 32) ∧
  (algOf 3 = some .sha512 ∧ hashFn .sha512 = sha512 ∧ blockSize .sha512 = 128 ∧ digestLen .sha512 = 64)

/-- R127: `HMAC`, its outputs, its two errors in their order, what it leaves alone, and that twice is the same as once. -/
def Obligations.HmacCommand : Prop :=
  ∀ s : State, ∃ t, exec .hmac s = .next t ∧
    t = { s with err := t.err, digest := t.digest, dlen := t.dlen } ∧
    exec .hmac t = .next t ∧
    (UnsupportedTag s → t.err = .unsupportedAlgorithm ∧ t.digest = bufZero _ ∧ t.dlen = 0) ∧
    (¬UnsupportedTag s → 256 < s.klen.toNat → t.err = .keyTooLong ∧ t.digest = bufZero _ ∧ t.dlen = 0) ∧
    (∀ a : HashAlg, s.alg = algTag a → s.klen.toNat ≤ 256 →
      t.err = .none ∧ t.dlen.toNat = digestLen a ∧
      ∀ i, i < 64 → bufByte t.digest i =
        if i < digestLen a then (hmac a (s.key.toList.take s.klen.toNat) s.msg.toList).getD i 0 else 0)

/-- R127, R213: with a supported tag and a key that fits, `HMAC` completes with the digest. -/
def Obligations.HmacCompletes : Prop :=
  ∀ (s : State) (a : HashAlg), s.alg = algTag a → s.klen.toNat ≤ 256 →
    exec .hmac s = .next { s with
      err := .none
      digest := bufOf 64 (hmac a (s.key.toList.take s.klen.toNat) s.msg.toList)
      dlen := BitVec.ofNat 32 (digestLen a) }

/-- R62, R83, R127, R216: `HMAC` is a function of `ALG`, `KLEN`, `KEY[0..KLEN)` and `MSG` alone: not of `COUNTER`, not of
the key bytes above `KLEN`. -/
def Obligations.HmacReadsOnlyItsOperands : Prop :=
  ∀ s s' : State, s'.alg = s.alg → s'.klen = s.klen → s'.msg = s.msg →
    s'.key.toList.take s.klen.toNat = s.key.toList.take s.klen.toNat →
    ∃ t t', exec .hmac s = .next t ∧ exec .hmac s' = .next t' ∧
      t'.err = t.err ∧ t'.digest = t.digest ∧ t'.dlen = t.dlen

/-! ## Dynamic truncation -/

/-- R142, with R135 to R141: `TRUNC`, its results, its errors in their order, and what it leaves alone. -/
def Obligations.TruncCommand : Prop :=
  ∀ s : State, ∃ t, exec .trunc s = .next t ∧
    t = { s with
      err := t.err, offset := t.offset, bincode := t.bincode, codeval := t.codeval, codedig := t.codedig } ∧
    (BadDigestLength s → t.err = .invalidDigestLength ∧
      t.offset = 0 ∧ t.bincode = 0 ∧ t.codeval = 0 ∧ t.codedig = 0) ∧
    (¬BadDigestLength s → BadDigits s → t.err = .invalidDigits ∧
      t.offset = 0 ∧ t.bincode = 0 ∧ t.codeval = 0 ∧ t.codedig = 0) ∧
    (¬BadDigestLength s → ¬BadDigits s → t.err = .none ∧
      t.offset.toNat = (bufByte s.digest (s.dlen.toNat - 1)).toNat % 16 ∧
      t.bincode.toNat =
        ((bufByte s.digest t.offset.toNat).toNat * 2 ^ 24 + (bufByte s.digest (t.offset.toNat + 1)).toNat * 2 ^ 16 +
          (bufByte s.digest (t.offset.toNat + 2)).toNat * 2 ^ 8 +
          (bufByte s.digest (t.offset.toNat + 3)).toNat) % 2 ^ 31 ∧
      t.codeval.toNat = t.bincode.toNat % 10 ^ s.digits.toNat ∧
      t.codedig.toNat = s.digits.toNat)

/-- R143: what holds of the result registers after a `TRUNC`, successful or failed. -/
def Obligations.TruncResultBounds : Prop :=
  ∀ s t : State, exec .trunc s = .next t →
    (t.err = .none →
      t.offset.toNat ≤ 15 ∧ t.offset.toNat + 4 ≤ t.dlen.toNat ∧ t.bincode.toNat < 2 ^ 31 ∧
      1 ≤ t.codedig.toNat ∧ t.codedig.toNat ≤ 9 ∧
      t.codeval.toNat = t.bincode.toNat % 10 ^ t.codedig.toNat ∧ t.codeval.toNat < 10 ^ t.codedig.toNat) ∧
    (t.err ≠ .none → t.offset = 0 ∧ t.bincode = 0 ∧ t.codeval = 0 ∧ t.codedig = 0)

/-- R145: TruncationOutOfRange cannot occur: past the length test the window and the last byte lie inside the digest and
inside the buffer, and no command leaves code 3. -/
def Obligations.OutOfRangeNeverRaised : Prop :=
  (∀ (d : Buf 64) (n g : Word), dynTrunc d n g ≠ .error .truncationOutOfRange) ∧
  (∀ (d : Buf 64) (n : Word), n = 20 ∨ n = 32 ∨ n = 64 →
    (truncOffset d n.toNat).toNat + 4 ≤ 19 ∧ 19 < n.toNat ∧ n.toNat - 1 < 64) ∧
  (∀ (i : Instr) (s t : State), exec i s = .next t → t.err ≠ .truncationOutOfRange)

/-- R146: `TRUNC` never looks at `ALG`; with `DLEN = 32`, and a legal `DIGITS`, it succeeds whatever `ALG` holds. -/
def Obligations.TruncIgnoresAlgorithm : Prop :=
  (∀ (s t : State) (a : Word), exec .trunc s = .next t → exec .trunc { s with alg := a } = .next { t with alg := a }) ∧
  (∀ s : State, s.dlen = 32 → ¬BadDigits s →
    ∃ t, exec .trunc s = .next t ∧ t.err = .none ∧ t.codedig.toNat = s.digits.toNat)

/-- R141, R142: `TRUNC` is a function of `DLEN`, `DIGITS` and `DIGEST[0..DLEN)` alone. -/
def Obligations.TruncReadsOnlyItsOperands : Prop :=
  ∀ s s' : State, s'.dlen = s.dlen → s'.digits = s.digits →
    (∀ i, i < s.dlen.toNat → bufByte s'.digest i = bufByte s.digest i) →
    ∃ t t', exec .trunc s = .next t ∧ exec .trunc s' = .next t' ∧
      t'.err = t.err ∧ t'.offset = t.offset ∧ t'.bincode = t.bincode ∧ t'.codeval = t.codeval ∧
      t'.codedig = t.codedig

/-! ## The formatter -/

/-- R150, R152: the string has exactly `d` characters, all decimal digits, reads back as the value, and no two values give
the same string. -/
def Obligations.DecFormatReadsBack : Prop :=
  ∀ v d : Nat, v < 10 ^ d →
    (decFormat v d).length = d ∧
    (∀ i, i < d → ((decFormat v d).getD i 0).toNat = 0x30 + v / 10 ^ (d - 1 - i) % 10) ∧
    (∀ b ∈ decFormat v d, 0x30 ≤ b.toNat ∧ b.toNat ≤ 0x39) ∧
    (∑ i ∈ Finset.range d, (((decFormat v d).getD i 0).toNat - 0x30) * 10 ^ (d - 1 - i)) = v ∧
    (∀ v', v' < 10 ^ d → decFormat v' d = decFormat v d → v' = v)

/-- R153: `FORMAT` completes in every state and writes `CODE`, `CODELEN` and `STATUS.ERR`; for a value and a width in the
domain of the formatter, which every reachable state has (R34), `CODE` is the string and zeros above it. -/
def Obligations.FormatCommand : Prop :=
  ∀ s : State, ∃ t, exec .format s = .next t ∧
    t = { s with err := .none, code := t.code, codelen := s.codedig } ∧
    (s.codedig.toNat ≤ 9 → s.codeval.toNat < 10 ^ s.codedig.toNat →
      ∀ i, i < 12 → (bufByte t.code i).toNat =
        if i < s.codedig.toNat then 0x30 + s.codeval.toNat / 10 ^ (s.codedig.toNat - 1 - i) % 10 else 0)

/-- R25, R153: `FORMAT` is a function of `CODEVAL` and `CODEDIG` alone: not of `DIGITS`. -/
def Obligations.FormatReadsOnlyItsOperands : Prop :=
  ∀ s s' : State, s'.codeval = s.codeval → s'.codedig = s.codedig →
    ∃ t t', exec .format s = .next t ∧ exec .format s' = .next t' ∧
      t'.err = t.err ∧ t'.code = t.code ∧ t'.codelen = t.codelen

/-- R147: for a digest of 20, 32 or 64 bytes and a width of 1 to 9, `TRUNC` then `FORMAT` gives exactly `DIGITS` decimal
digits, of a value below `10^DIGITS`. -/
def Obligations.TruncThenFormatGivesCode : Prop :=
  ∀ s : State, ¬BadDigestLength s → ¬BadDigits s →
    ∃ t u, exec .trunc s = .next t ∧ exec .format t = .next u ∧ t.err = .none ∧ u.err = .none ∧
      u.codelen.toNat = s.digits.toNat ∧ u.codeval.toNat < 10 ^ s.digits.toNat ∧
      (∀ i, i < s.digits.toNat → 0x30 ≤ (bufByte u.code i).toNat ∧ (bufByte u.code i).toNat ≤ 0x39) ∧
      (∑ i ∈ Finset.range s.digits.toNat, ((bufByte u.code i).toNat - 0x30) * 10 ^ (s.digits.toNat - 1 - i)) =
        u.codeval.toNat

/-! ## The pipeline -/

/-- R160, with R162 and R163: `HOTP` is the four stepwise commands and the scrub; on an error it leaves no code and the
scrubbed state. -/
def Obligations.HotpCommand : Prop :=
  ∀ s : State,
    (UnsupportedTag s →
      exec .hotp s = .next { scrub s with err := .unsupportedAlgorithm, code := bufZero _, codelen := 0 }) ∧
    (¬UnsupportedTag s → 256 < s.klen.toNat →
      exec .hotp s = .next { scrub s with err := .keyTooLong, code := bufZero _, codelen := 0 }) ∧
    (¬UnsupportedTag s → s.klen.toNat ≤ 256 → BadDigits s →
      exec .hotp s = .next { scrub s with err := .invalidDigits, code := bufZero _, codelen := 0 }) ∧
    (¬UnsupportedTag s → s.klen.toNat ≤ 256 → ¬BadDigits s →
      ∃ t₁ t₂ t₃ t₄, exec .encode s = .next t₁ ∧ exec .hmac t₁ = .next t₂ ∧ exec .trunc t₂ = .next t₃ ∧
        exec .format t₃ = .next t₄ ∧ t₄.err = .none ∧ exec .hotp s = .next (scrub t₄))

/-- R161: the value of a successful `HOTP`. -/
def Obligations.HotpCodeValue : Prop :=
  ∀ (s : State) (a : HashAlg), s.alg = algTag a → s.klen.toNat ≤ 256 → ¬BadDigits s →
    ∃ (t : State) (d : List Byte) (o p : Nat),
      exec .hotp s = .next t ∧
      d = hmac a (s.key.toList.take s.klen.toNat) (encodeCounter s.counter) ∧ d.length = digestLen a ∧
      o = (d.getD (d.length - 1) 0).toNat % 16 ∧
      p = ((d.getD o 0).toNat * 2 ^ 24 + (d.getD (o + 1) 0).toNat * 2 ^ 16 + (d.getD (o + 2) 0).toNat * 2 ^ 8 +
        (d.getD (o + 3) 0).toNat) % 2 ^ 31 ∧
      t.code.toList.take s.digits.toNat = decFormat (p % 10 ^ s.digits.toNat) s.digits.toNat ∧
      t.codelen.toNat = s.digits.toNat ∧ t.err = .none

/-- R165: after every `HOTP` the secret and the intermediates are gone, and there is either a complete code and no error,
or an error and no code. -/
def Obligations.HotpOutcomes : Prop :=
  ∀ s : State, ∃ t, exec .hotp s = .next t ∧
    (t.klen = 0 ∧ t.dlen = 0 ∧ t.offset = 0 ∧ t.bincode = 0 ∧ t.codeval = 0 ∧ t.codedig = 0 ∧
      t.key = bufZero _ ∧ t.msg = bufZero _ ∧ t.digest = bufZero _) ∧
    ((t.err = .none ∧ t.codelen.toNat = t.digits.toNat ∧ 1 ≤ t.codelen.toNat ∧ t.codelen.toNat ≤ 9 ∧
        ∀ i, i < t.codelen.toNat → 0x30 ≤ (bufByte t.code i).toNat ∧ (bufByte t.code i).toNat ≤ 0x39) ∨
      ((t.err = .unsupportedAlgorithm ∨ t.err = .invalidDigits ∨ t.err = .keyTooLong) ∧
        t.codelen = 0 ∧ t.code = bufZero _))

/-- R160, R161: `HOTP` is a function of `COUNTER`, `ALG`, `KLEN`, `KEY[0..KLEN)` and `DIGITS` alone: not of `MSG`, `DIGEST`
or `DLEN` as they stood. -/
def Obligations.HotpReadsOnlyItsOperands : Prop :=
  ∀ s s' : State, s'.counter = s.counter → s'.alg = s.alg → s'.klen = s.klen → s'.digits = s.digits →
    s'.key.toList.take s.klen.toNat = s.key.toList.take s.klen.toNat →
    ∃ t t', exec .hotp s = .next t ∧ exec .hotp s' = .next t' ∧
      t'.err = t.err ∧ t'.code = t.code ∧ t'.codelen = t.codelen

/-- R163: what the scrub zeroes, that it touches nothing else, and that every `HOTP`, successful or not, ends scrubbed. -/
def Obligations.ScrubZeroes : Prop :=
  ∀ s : State,
    scrub s = { s with
      key := (scrub s).key, klen := 0, msg := (scrub s).msg, digest := (scrub s).digest, dlen := 0
      offset := 0, bincode := 0, codeval := 0, codedig := 0 } ∧
    (∀ i, i < 256 → bufByte (scrub s).key i = 0) ∧ (∀ i, i < 8 → bufByte (scrub s).msg i = 0) ∧
    (∀ i, i < 64 → bufByte (scrub s).digest i = 0) ∧
    (∀ t, exec .hotp s = .next t → t = scrub t)

/-- R217: a second `HOTP` without reloading the key computes with the empty key: it ends as `HOTP` with `KLEN = 0` does
from the state before the first. -/
def Obligations.SecondHotpUsesEmptyKey : Prop :=
  ∀ s t : State, exec .hotp s = .next t → exec .hotp t = exec .hotp { s with klen := 0 }

/-- R166: the state after `CLEAR` equals the state after reset, and `CLEAR` of a clear block changes nothing. -/
def Obligations.ClearEqualsReset : Prop :=
  ∀ s : State,
    exec .clear s = .next { State.reset with inbox := s.inbox, out := s.out } ∧
    exec .clear { State.reset with inbox := s.inbox, out := s.out } =
      .next { State.reset with inbox := s.inbox, out := s.out }

/-! ## Reset and the port -/

/-- R35: the values after reset. -/
def Obligations.ResetValues : Prop :=
  readReg .id State.reset = 0x484F5450 ∧ readReg .status State.reset = 0 ∧
  State.reset.alg = 0 ∧ algOf State.reset.alg = none ∧ State.reset.digits = 0 ∧ digitsOk State.reset.digits = false ∧
  State.reset.klen = 0 ∧ State.reset.counter = 0 ∧ (∀ i, i < 8 → bufByte State.reset.msg i = 0) ∧
  State.reset.dlen = 0 ∧ (∀ i, i < 64 → bufByte State.reset.digest i = 0) ∧ State.reset.offset = 0 ∧
  State.reset.bincode = 0 ∧ State.reset.codeval = 0 ∧ State.reset.codedig = 0 ∧ State.reset.codelen = 0 ∧
  (∀ i, i < 12 → bufByte State.reset.code i = 0) ∧ (∀ i, i < 256 → bufByte State.reset.key i = 0)

/-- R55: with `rst` high the step ends in the reset state and gives no acknowledge, whatever transaction the other pins
present: none of its effects is kept. -/
def Obligations.ResetAbandonsTransaction : Prop :=
  ∀ (s : State) (p : PortIn) (rest : List PortIn), s.inbox = p :: rest → p.rst = true →
    step s = .next { State.reset with inbox := rest, out := .noAck }

/-- R205: with no request the block holds its state. -/
def Obligations.IdleHoldsState : Prop :=
  (∀ s : State, s.inbox = [] → step s = .next { s with out := .noAck }) ∧
  (∀ (s : State) (p : PortIn) (rest : List PortIn), s.inbox = p :: rest → p.rst = false → p.req = false →
    step s = .next { s with inbox := rest, out := .noAck })

/-- R41, with R30: a read returns the register's value and changes no state; `CMD`, every `KEY` word and every reserved
offset read zero. The byte offset of the word address `a` is `4 * a`. -/
def Obligations.ReadTransaction : Prop :=
  ∀ (s : State) (p : PortIn) (rest : List PortIn), s.inbox = p :: rest →
    p.rst = false → p.req = true → p.we = false →
    ∃ v : Word, step s = .next { s with inbox := rest, out := .ackRead v } ∧
      (4 * p.addr.toNat = 0x000 → v = 0x484F5450) ∧
      (4 * p.addr.toNat = 0x004 → v = 0) ∧
      (4 * p.addr.toNat = 0x008 → v = statusWord s.err) ∧
      (4 * p.addr.toNat = 0x00C → v = s.alg) ∧
      (4 * p.addr.toNat = 0x010 → v = s.digits) ∧
      (4 * p.addr.toNat = 0x014 → v = s.klen) ∧
      (4 * p.addr.toNat = 0x018 → v.toNat = s.counter.toNat % 2 ^ 32) ∧
      (4 * p.addr.toNat = 0x01C → v.toNat = s.counter.toNat / 2 ^ 32) ∧
      (∀ w, w < 2 → 4 * p.addr.toNat = 0x020 + 4 * w → v = bufWord s.msg w) ∧
      (4 * p.addr.toNat = 0x028 → v = s.dlen) ∧
      (4 * p.addr.toNat = 0x02C → v.toNat = s.offset.toNat) ∧
      (4 * p.addr.toNat = 0x030 → v.toNat = s.bincode.toNat) ∧
      (4 * p.addr.toNat = 0x034 → v.toNat = s.codeval.toNat) ∧
      (4 * p.addr.toNat = 0x038 → v.toNat = s.codedig.toNat) ∧
      (4 * p.addr.toNat = 0x03C → v.toNat = s.codelen.toNat) ∧
      (∀ w, w < 3 → 4 * p.addr.toNat = 0x040 + 4 * w → v = bufWord s.code w) ∧
      (∀ w, w < 16 → 4 * p.addr.toNat = 0x080 + 4 * w → v = bufWord s.digest w) ∧
      (0x100 ≤ 4 * p.addr.toNat → v = 0) ∧
      (0x04C ≤ 4 * p.addr.toNat → 4 * p.addr.toNat < 0x080 → v = 0) ∧
      (0x0C0 ≤ 4 * p.addr.toNat → 4 * p.addr.toNat < 0x100 → v = 0)

/-- R29, R200: no read shows anything of `KEY`: two states that differ in nothing else give the same outputs. -/
def Obligations.KeyCannotBeRead : Prop :=
  ∀ (s t : State) (k : Buf 256) (p : PortIn) (rest : List PortIn), s.inbox = p :: rest →
    p.rst = false → p.we = false →
    step s = .next t → step { s with key := k } = .next { t with key := k }

/-- R42: a write to `CMD` executes the command the word encodes; any other write changes the addressed storage and nothing
else; read-only and reserved offsets ignore it. The byte offset of the word address `a` is `4 * a`. -/
def Obligations.WriteTransaction : Prop :=
  ∀ (s : State) (a : PortAddr) (v : Word) (rest : List PortIn), s.inbox = pinsWrite a v :: rest →
    ∃ t, step s = .next t ∧
      (4 * a.toNat = 0x004 →
        (∀ i, decode v = .ok i → exec i (accepted rest s) = .next t) ∧
        (∀ e, decode v = .error e → t = { accepted rest s with err := .illegalCommand })) ∧
      (4 * a.toNat = 0x00C → t = { accepted rest s with alg := v }) ∧
      (4 * a.toNat = 0x010 → t = { accepted rest s with digits := v }) ∧
      (4 * a.toNat = 0x014 → t = { accepted rest s with klen := v }) ∧
      (4 * a.toNat = 0x018 → t = { accepted rest s with counter := t.counter } ∧
        t.counter.toNat = s.counter.toNat / 2 ^ 32 * 2 ^ 32 + v.toNat) ∧
      (4 * a.toNat = 0x01C → t = { accepted rest s with counter := t.counter } ∧
        t.counter.toNat = v.toNat * 2 ^ 32 + s.counter.toNat % 2 ^ 32) ∧
      (4 * a.toNat = 0x028 → t = { accepted rest s with dlen := v }) ∧
      (∀ w, w < 16 → 4 * a.toNat = 0x080 + 4 * w →
        t = { accepted rest s with digest := bufSetWord s.digest w v }) ∧
      (∀ w, w < 64 → 4 * a.toNat = 0x100 + 4 * w →
        t = { accepted rest s with key := bufSetWord s.key w v }) ∧
      (4 * a.toNat = 0x000 ∨ 4 * a.toNat = 0x008 ∨ (0x020 ≤ 4 * a.toNat ∧ 4 * a.toNat < 0x028) ∨
        (0x02C ≤ 4 * a.toNat ∧ 4 * a.toNat < 0x080) ∨ (0x0C0 ≤ 4 * a.toNat ∧ 4 * a.toNat < 0x100) ∨
        0x200 ≤ 4 * a.toNat → t = accepted rest s)

/-- R46: the byte lanes of a word of a buffer, read and written. -/
def Obligations.BufferLanes : Prop :=
  ∀ (n : Nat) (b : Buf n) (w : Nat) (v : Word), 4 * w + 3 < n →
    (bufWord b w).toNat = (bufByte b (4 * w)).toNat + 2 ^ 8 * (bufByte b (4 * w + 1)).toNat +
      2 ^ 16 * (bufByte b (4 * w + 2)).toNat + 2 ^ 24 * (bufByte b (4 * w + 3)).toNat ∧
    (∀ j, j < 4 → bufByte (bufSetWord b w v) (4 * w + j) = v.extractLsb' (8 * j) 8) ∧
    (∀ i, i / 4 ≠ w → bufByte (bufSetWord b w v) i = bufByte b i) ∧
    bufWord (bufSetWord b w v) w = v

/-- R12, R42, R46: a read-write register or digest word, written and then read, returns all 32 bits of what was written,
and `STATUS` does not change. -/
def Obligations.WrittenWordReadsBack : Prop :=
  ∀ (s : State) (a : PortAddr) (v : Word) (rest : List PortIn),
    s.inbox = pinsWrite a v :: pinsRead a :: rest →
    ((0x00C ≤ 4 * a.toNat ∧ 4 * a.toNat < 0x020) ∨ 4 * a.toNat = 0x028 ∨
      (0x080 ≤ 4 * a.toNat ∧ 4 * a.toNat < 0x0C0)) →
    ∃ t u, step s = .next t ∧ step t = .next u ∧ u.out = .ackRead v ∧ u.err = s.err

/-- R48: reserved offsets read as zero and ignore writes; they have no side effect and raise no error. -/
def Obligations.ReservedOffsets : Prop :=
  ∀ (s : State) (a : PortAddr) (rest : List PortIn),
    (0x04C ≤ 4 * a.toNat ∧ 4 * a.toNat < 0x080) ∨ (0x0C0 ≤ 4 * a.toNat ∧ 4 * a.toNat < 0x100) ∨
      0x200 ≤ 4 * a.toNat →
    (s.inbox = pinsRead a :: rest → step s = .next { s with inbox := rest, out := .ackRead 0 }) ∧
    (∀ v, s.inbox = pinsWrite a v :: rest → step s = .next { s with inbox := rest, out := .ackWrite })

/-- R49: a write of the same value to the same place twice is the same as once. -/
def Obligations.WriteTwiceIsOnce : Prop :=
  ∀ (s : State) (a : PortAddr) (v : Word) (rest : List PortIn), a ≠ Config.cmdAddr →
    s.inbox = pinsWrite a v :: pinsWrite a v :: rest →
    ∃ t u, step s = .next t ∧ step t = .next u ∧ u = { t with inbox := rest }

/-- R15, R42, R221: no transaction other than a `CMD` write changes `STATUS` or any result register. -/
def Obligations.OnlyCommandsChangeResults : Prop :=
  ∀ (s t : State) (p : PortIn) (rest : List PortIn), s.inbox = p :: rest → p.rst = false →
    (p.req = false ∨ p.we = false ∨ p.addr ≠ Config.cmdAddr) → step s = .next t →
    t.err = s.err ∧ t.msg = s.msg ∧ t.offset = s.offset ∧ t.bincode = s.bincode ∧ t.codeval = s.codeval ∧
      t.codedig = s.codedig ∧ t.codelen = s.codelen ∧ t.code = s.code

/-! ## Invariants -/

/-- R34, R35: the reset state meets the invariant. -/
def Obligations.ResetMeetsInvariant : Prop := Inv State.reset

/-- R34: every step keeps the invariant, from every state that meets it. -/
def Obligations.StepKeepsInvariant : Prop :=
  ∀ s t : State, Inv s → step s = .next t → Inv t

/-- R34: every state reachable from reset, by any sequence of reads, writes and resets, meets the invariant. -/
def Obligations.ReachableStatesMeetInvariant : Prop := ∀ s : State, Reachable s → Inv s

/-! ## Scripts and the wrapper, outside the block -/

/-- R68, R220: `LDKEY` loads a key of at most 256 bytes: afterwards the secret is the key, the lanes of its last word that it
does not fill are zero, and every other byte of `KEY`, and everything but `KLEN` and the port's outputs, is as before. -/
def Obligations.LdkeyLoadsKey : Prop :=
  ∀ (k : List Byte) (s : State), k.length ≤ 256 →
    ∃ t, runScript (ldkey k) s = (t, []) ∧
      t.klen.toNat = k.length ∧ t.key.toList.take t.klen.toNat = k ∧
      (∀ i, k.length ≤ i → i < 4 * ((k.length + 3) / 4) → bufByte t.key i = 0) ∧
      (∀ i, 4 * ((k.length + 3) / 4) ≤ i → bufByte t.key i = bufByte s.key i) ∧
      t = { s with key := t.key, klen := t.klen, out := .ackWrite }

/-- R179, R180: the TOTP counter is `now div step`, a step of zero is `InvalidStep`, and `generate_totp` of a secret that
decodes is `generate_hotp` with that counter, result and block alike. For a decoded key above 256 bytes, which R180 and R68 leave
open, that is the model's DESIGN CHOICE (log 15). -/
def Obligations.TotpCounterDivides : Prop :=
  ∀ now stp : DWord,
    (stp = 0 → totpCounter now stp = .error .invalidStep) ∧
    (stp ≠ 0 → ∃ c, totpCounter now stp = .ok c ∧ c.toNat = now.toNat / stp.toNat ∧
      ∀ (secret : List Char) (digits : Word) (a : HashAlg) (s : State), base32Decode secret ≠ none →
        generateTotp secret stp digits a now s = generateHotp secret c digits a s)

/-- R176, R179, R181: a malformed secret or a zero step reaches the block with no transaction at all; with both, either
error. -/
def Obligations.FailedChecksTouchNothing : Prop :=
  ∀ (secret : List Char) (counter stp now : DWord) (digits : Word) (a : HashAlg) (s : State),
    (base32Decode secret = none → generateHotp secret counter digits a s = (.error .invalidSecret, s)) ∧
    (base32Decode secret = none → stp ≠ 0 → generateTotp secret stp digits a now s = (.error .invalidSecret, s)) ∧
    (base32Decode secret ≠ none → stp = 0 → generateTotp secret stp digits a now s = (.error .invalidStep, s)) ∧
    (base32Decode secret = none → stp = 0 →
      generateTotp secret stp digits a now s = (.error .invalidSecret, s) ∨
        generateTotp secret stp digits a now s = (.error .invalidStep, s))

/-- R178, R161: `generate_hotp` of a secret that decodes to a key of at most 256 bytes and a width of 1 to 9 returns the
code of the key and the counter, from any state of the block. -/
def Obligations.GenerateHotpReturnsCode : Prop :=
  ∀ (secret : List Char) (k : List Byte) (counter : DWord) (digits : Word) (a : HashAlg) (s : State),
    base32Decode secret = some k → k.length ≤ 256 → 1 ≤ digits.toNat → digits.toNat ≤ 9 →
    ∃ (d : List Byte) (o p : Nat),
      d = hmac a k (encodeCounter counter) ∧ o = (d.getD (d.length - 1) 0).toNat % 16 ∧
      p = ((d.getD o 0).toNat * 2 ^ 24 + (d.getD (o + 1) 0).toNat * 2 ^ 16 + (d.getD (o + 2) 0).toNat * 2 ^ 8 +
        (d.getD (o + 3) 0).toNat) % 2 ^ 31 ∧
      (generateHotp secret counter digits a s).1 = .ok (decFormat (p % 10 ^ digits.toNat) digits.toNat)

/-- R182: behind the host binding a member of the enumeration is the entry point itself, and a tag that is none of the three
ends in UnsupportedAlgorithm for a secret that decodes to a key of at most 256 bytes. That the block raises it, and not the
wrapper, is the model's choice among those R182 allows (log 10); for the calls stated, in which no other check fails, the
result is the same. -/
def Obligations.ForeignTagIsUnsupported : Prop :=
  ∀ (secret : List Char) (counter stp now : DWord) (digits : Word) (s : State),
    (∀ a : HashAlg,
      generateHotpBound secret counter digits (some a) s = generateHotp secret counter digits a s ∧
      generateTotpBound secret stp digits (some a) now s = generateTotp secret stp digits a now s) ∧
    (∀ k : List Byte, base32Decode secret = some k → k.length ≤ 256 →
      (generateHotpBound secret counter digits none s).1 = .error .unsupportedAlgorithm ∧
      (stp ≠ 0 → (generateTotpBound secret stp digits none now s).1 = .error .unsupportedAlgorithm))
end

