-- ==== Sys2Proof/Laws/State.lean ====
section
/-! SUPPORT. One lemma per field of State per named update of it, each true by definition, so that no proof unfolds an
update; and the fields of the reset state (R35). -/

namespace Sys2Proof.Machine

@[simp] theorem setErr_err (e : ErrCode) (s : State) : (setErr e s).err = e := rfl
@[simp] theorem setErr_alg (e : ErrCode) (s : State) : (setErr e s).alg = s.alg := rfl
@[simp] theorem setErr_digits (e : ErrCode) (s : State) : (setErr e s).digits = s.digits := rfl
@[simp] theorem setErr_klen (e : ErrCode) (s : State) : (setErr e s).klen = s.klen := rfl
@[simp] theorem setErr_counter (e : ErrCode) (s : State) : (setErr e s).counter = s.counter := rfl
@[simp] theorem setErr_msg (e : ErrCode) (s : State) : (setErr e s).msg = s.msg := rfl
@[simp] theorem setErr_dlen (e : ErrCode) (s : State) : (setErr e s).dlen = s.dlen := rfl
@[simp] theorem setErr_offset (e : ErrCode) (s : State) : (setErr e s).offset = s.offset := rfl
@[simp] theorem setErr_bincode (e : ErrCode) (s : State) : (setErr e s).bincode = s.bincode := rfl
@[simp] theorem setErr_codeval (e : ErrCode) (s : State) : (setErr e s).codeval = s.codeval := rfl
@[simp] theorem setErr_codedig (e : ErrCode) (s : State) : (setErr e s).codedig = s.codedig := rfl
@[simp] theorem setErr_codelen (e : ErrCode) (s : State) : (setErr e s).codelen = s.codelen := rfl
@[simp] theorem setErr_code (e : ErrCode) (s : State) : (setErr e s).code = s.code := rfl
@[simp] theorem setErr_digest (e : ErrCode) (s : State) : (setErr e s).digest = s.digest := rfl
@[simp] theorem setErr_key (e : ErrCode) (s : State) : (setErr e s).key = s.key := rfl
@[simp] theorem setErr_inbox (e : ErrCode) (s : State) : (setErr e s).inbox = s.inbox := rfl
@[simp] theorem setErr_out (e : ErrCode) (s : State) : (setErr e s).out = s.out := rfl

@[simp] theorem raiseErr_err (e : ErrCode) (s : State) : (raiseErr e s).err = e := rfl
@[simp] theorem raiseErr_alg (e : ErrCode) (s : State) : (raiseErr e s).alg = s.alg := rfl
@[simp] theorem raiseErr_digits (e : ErrCode) (s : State) : (raiseErr e s).digits = s.digits := rfl
@[simp] theorem raiseErr_klen (e : ErrCode) (s : State) : (raiseErr e s).klen = s.klen := rfl
@[simp] theorem raiseErr_counter (e : ErrCode) (s : State) : (raiseErr e s).counter = s.counter := rfl
@[simp] theorem raiseErr_msg (e : ErrCode) (s : State) : (raiseErr e s).msg = s.msg := rfl
@[simp] theorem raiseErr_dlen (e : ErrCode) (s : State) : (raiseErr e s).dlen = s.dlen := rfl
@[simp] theorem raiseErr_offset (e : ErrCode) (s : State) : (raiseErr e s).offset = s.offset := rfl
@[simp] theorem raiseErr_bincode (e : ErrCode) (s : State) : (raiseErr e s).bincode = s.bincode := rfl
@[simp] theorem raiseErr_codeval (e : ErrCode) (s : State) : (raiseErr e s).codeval = s.codeval := rfl
@[simp] theorem raiseErr_codedig (e : ErrCode) (s : State) : (raiseErr e s).codedig = s.codedig := rfl
@[simp] theorem raiseErr_codelen (e : ErrCode) (s : State) : (raiseErr e s).codelen = s.codelen := rfl
@[simp] theorem raiseErr_code (e : ErrCode) (s : State) : (raiseErr e s).code = s.code := rfl
@[simp] theorem raiseErr_digest (e : ErrCode) (s : State) : (raiseErr e s).digest = s.digest := rfl
@[simp] theorem raiseErr_key (e : ErrCode) (s : State) : (raiseErr e s).key = s.key := rfl
@[simp] theorem raiseErr_inbox (e : ErrCode) (s : State) : (raiseErr e s).inbox = s.inbox := rfl
@[simp] theorem raiseErr_out (e : ErrCode) (s : State) : (raiseErr e s).out = s.out := rfl

@[simp] theorem clearDigest_err (s : State) : (clearDigest s).err = s.err := rfl
@[simp] theorem clearDigest_alg (s : State) : (clearDigest s).alg = s.alg := rfl
@[simp] theorem clearDigest_digits (s : State) : (clearDigest s).digits = s.digits := rfl
@[simp] theorem clearDigest_klen (s : State) : (clearDigest s).klen = s.klen := rfl
@[simp] theorem clearDigest_counter (s : State) : (clearDigest s).counter = s.counter := rfl
@[simp] theorem clearDigest_msg (s : State) : (clearDigest s).msg = s.msg := rfl
@[simp] theorem clearDigest_dlen (s : State) : (clearDigest s).dlen = 0 := rfl
@[simp] theorem clearDigest_offset (s : State) : (clearDigest s).offset = s.offset := rfl
@[simp] theorem clearDigest_bincode (s : State) : (clearDigest s).bincode = s.bincode := rfl
@[simp] theorem clearDigest_codeval (s : State) : (clearDigest s).codeval = s.codeval := rfl
@[simp] theorem clearDigest_codedig (s : State) : (clearDigest s).codedig = s.codedig := rfl
@[simp] theorem clearDigest_codelen (s : State) : (clearDigest s).codelen = s.codelen := rfl
@[simp] theorem clearDigest_code (s : State) : (clearDigest s).code = s.code := rfl
@[simp] theorem clearDigest_digest (s : State) : (clearDigest s).digest = bufZero _ := rfl
@[simp] theorem clearDigest_key (s : State) : (clearDigest s).key = s.key := rfl
@[simp] theorem clearDigest_inbox (s : State) : (clearDigest s).inbox = s.inbox := rfl
@[simp] theorem clearDigest_out (s : State) : (clearDigest s).out = s.out := rfl

@[simp] theorem clearTrunc_err (s : State) : (clearTrunc s).err = s.err := rfl
@[simp] theorem clearTrunc_alg (s : State) : (clearTrunc s).alg = s.alg := rfl
@[simp] theorem clearTrunc_digits (s : State) : (clearTrunc s).digits = s.digits := rfl
@[simp] theorem clearTrunc_klen (s : State) : (clearTrunc s).klen = s.klen := rfl
@[simp] theorem clearTrunc_counter (s : State) : (clearTrunc s).counter = s.counter := rfl
@[simp] theorem clearTrunc_msg (s : State) : (clearTrunc s).msg = s.msg := rfl
@[simp] theorem clearTrunc_dlen (s : State) : (clearTrunc s).dlen = s.dlen := rfl
@[simp] theorem clearTrunc_offset (s : State) : (clearTrunc s).offset = 0 := rfl
@[simp] theorem clearTrunc_bincode (s : State) : (clearTrunc s).bincode = 0 := rfl
@[simp] theorem clearTrunc_codeval (s : State) : (clearTrunc s).codeval = 0 := rfl
@[simp] theorem clearTrunc_codedig (s : State) : (clearTrunc s).codedig = 0 := rfl
@[simp] theorem clearTrunc_codelen (s : State) : (clearTrunc s).codelen = s.codelen := rfl
@[simp] theorem clearTrunc_code (s : State) : (clearTrunc s).code = s.code := rfl
@[simp] theorem clearTrunc_digest (s : State) : (clearTrunc s).digest = s.digest := rfl
@[simp] theorem clearTrunc_key (s : State) : (clearTrunc s).key = s.key := rfl
@[simp] theorem clearTrunc_inbox (s : State) : (clearTrunc s).inbox = s.inbox := rfl
@[simp] theorem clearTrunc_out (s : State) : (clearTrunc s).out = s.out := rfl

@[simp] theorem clearCode_err (s : State) : (clearCode s).err = s.err := rfl
@[simp] theorem clearCode_alg (s : State) : (clearCode s).alg = s.alg := rfl
@[simp] theorem clearCode_digits (s : State) : (clearCode s).digits = s.digits := rfl
@[simp] theorem clearCode_klen (s : State) : (clearCode s).klen = s.klen := rfl
@[simp] theorem clearCode_counter (s : State) : (clearCode s).counter = s.counter := rfl
@[simp] theorem clearCode_msg (s : State) : (clearCode s).msg = s.msg := rfl
@[simp] theorem clearCode_dlen (s : State) : (clearCode s).dlen = s.dlen := rfl
@[simp] theorem clearCode_offset (s : State) : (clearCode s).offset = s.offset := rfl
@[simp] theorem clearCode_bincode (s : State) : (clearCode s).bincode = s.bincode := rfl
@[simp] theorem clearCode_codeval (s : State) : (clearCode s).codeval = s.codeval := rfl
@[simp] theorem clearCode_codedig (s : State) : (clearCode s).codedig = s.codedig := rfl
@[simp] theorem clearCode_codelen (s : State) : (clearCode s).codelen = 0 := rfl
@[simp] theorem clearCode_code (s : State) : (clearCode s).code = bufZero _ := rfl
@[simp] theorem clearCode_digest (s : State) : (clearCode s).digest = s.digest := rfl
@[simp] theorem clearCode_key (s : State) : (clearCode s).key = s.key := rfl
@[simp] theorem clearCode_inbox (s : State) : (clearCode s).inbox = s.inbox := rfl
@[simp] theorem clearCode_out (s : State) : (clearCode s).out = s.out := rfl

@[simp] theorem scrub_err (s : State) : (scrub s).err = s.err := rfl
@[simp] theorem scrub_alg (s : State) : (scrub s).alg = s.alg := rfl
@[simp] theorem scrub_digits (s : State) : (scrub s).digits = s.digits := rfl
@[simp] theorem scrub_klen (s : State) : (scrub s).klen = 0 := rfl
@[simp] theorem scrub_counter (s : State) : (scrub s).counter = s.counter := rfl
@[simp] theorem scrub_msg (s : State) : (scrub s).msg = bufZero _ := rfl
@[simp] theorem scrub_dlen (s : State) : (scrub s).dlen = 0 := rfl
@[simp] theorem scrub_offset (s : State) : (scrub s).offset = 0 := rfl
@[simp] theorem scrub_bincode (s : State) : (scrub s).bincode = 0 := rfl
@[simp] theorem scrub_codeval (s : State) : (scrub s).codeval = 0 := rfl
@[simp] theorem scrub_codedig (s : State) : (scrub s).codedig = 0 := rfl
@[simp] theorem scrub_codelen (s : State) : (scrub s).codelen = s.codelen := rfl
@[simp] theorem scrub_code (s : State) : (scrub s).code = s.code := rfl
@[simp] theorem scrub_digest (s : State) : (scrub s).digest = bufZero _ := rfl
@[simp] theorem scrub_key (s : State) : (scrub s).key = bufZero _ := rfl
@[simp] theorem scrub_inbox (s : State) : (scrub s).inbox = s.inbox := rfl
@[simp] theorem scrub_out (s : State) : (scrub s).out = s.out := rfl

@[simp] theorem resetBlock_err (s : State) : (resetBlock s).err = State.reset.err := rfl
@[simp] theorem resetBlock_alg (s : State) : (resetBlock s).alg = State.reset.alg := rfl
@[simp] theorem resetBlock_digits (s : State) : (resetBlock s).digits = State.reset.digits := rfl
@[simp] theorem resetBlock_klen (s : State) : (resetBlock s).klen = State.reset.klen := rfl
@[simp] theorem resetBlock_counter (s : State) : (resetBlock s).counter = State.reset.counter := rfl
@[simp] theorem resetBlock_msg (s : State) : (resetBlock s).msg = State.reset.msg := rfl
@[simp] theorem resetBlock_dlen (s : State) : (resetBlock s).dlen = State.reset.dlen := rfl
@[simp] theorem resetBlock_offset (s : State) : (resetBlock s).offset = State.reset.offset := rfl
@[simp] theorem resetBlock_bincode (s : State) : (resetBlock s).bincode = State.reset.bincode := rfl
@[simp] theorem resetBlock_codeval (s : State) : (resetBlock s).codeval = State.reset.codeval := rfl
@[simp] theorem resetBlock_codedig (s : State) : (resetBlock s).codedig = State.reset.codedig := rfl
@[simp] theorem resetBlock_codelen (s : State) : (resetBlock s).codelen = State.reset.codelen := rfl
@[simp] theorem resetBlock_code (s : State) : (resetBlock s).code = State.reset.code := rfl
@[simp] theorem resetBlock_digest (s : State) : (resetBlock s).digest = State.reset.digest := rfl
@[simp] theorem resetBlock_key (s : State) : (resetBlock s).key = State.reset.key := rfl
@[simp] theorem resetBlock_inbox (s : State) : (resetBlock s).inbox = s.inbox := rfl
@[simp] theorem resetBlock_out (s : State) : (resetBlock s).out = s.out := rfl

@[simp] theorem putMsg_err (m : List Byte) (s : State) : (putMsg m s).err = s.err := rfl
@[simp] theorem putMsg_alg (m : List Byte) (s : State) : (putMsg m s).alg = s.alg := rfl
@[simp] theorem putMsg_digits (m : List Byte) (s : State) : (putMsg m s).digits = s.digits := rfl
@[simp] theorem putMsg_klen (m : List Byte) (s : State) : (putMsg m s).klen = s.klen := rfl
@[simp] theorem putMsg_counter (m : List Byte) (s : State) : (putMsg m s).counter = s.counter := rfl
@[simp] theorem putMsg_msg (m : List Byte) (s : State) : (putMsg m s).msg = bufOf _ m := rfl
@[simp] theorem putMsg_dlen (m : List Byte) (s : State) : (putMsg m s).dlen = s.dlen := rfl
@[simp] theorem putMsg_offset (m : List Byte) (s : State) : (putMsg m s).offset = s.offset := rfl
@[simp] theorem putMsg_bincode (m : List Byte) (s : State) : (putMsg m s).bincode = s.bincode := rfl
@[simp] theorem putMsg_codeval (m : List Byte) (s : State) : (putMsg m s).codeval = s.codeval := rfl
@[simp] theorem putMsg_codedig (m : List Byte) (s : State) : (putMsg m s).codedig = s.codedig := rfl
@[simp] theorem putMsg_codelen (m : List Byte) (s : State) : (putMsg m s).codelen = s.codelen := rfl
@[simp] theorem putMsg_code (m : List Byte) (s : State) : (putMsg m s).code = s.code := rfl
@[simp] theorem putMsg_digest (m : List Byte) (s : State) : (putMsg m s).digest = s.digest := rfl
@[simp] theorem putMsg_key (m : List Byte) (s : State) : (putMsg m s).key = s.key := rfl
@[simp] theorem putMsg_inbox (m : List Byte) (s : State) : (putMsg m s).inbox = s.inbox := rfl
@[simp] theorem putMsg_out (m : List Byte) (s : State) : (putMsg m s).out = s.out := rfl

@[simp] theorem putDigest_err (d : List Byte) (s : State) : (putDigest d s).err = s.err := rfl
@[simp] theorem putDigest_alg (d : List Byte) (s : State) : (putDigest d s).alg = s.alg := rfl
@[simp] theorem putDigest_digits (d : List Byte) (s : State) : (putDigest d s).digits = s.digits := rfl
@[simp] theorem putDigest_klen (d : List Byte) (s : State) : (putDigest d s).klen = s.klen := rfl
@[simp] theorem putDigest_counter (d : List Byte) (s : State) : (putDigest d s).counter = s.counter := rfl
@[simp] theorem putDigest_msg (d : List Byte) (s : State) : (putDigest d s).msg = s.msg := rfl
@[simp] theorem putDigest_dlen (d : List Byte) (s : State) : (putDigest d s).dlen = BitVec.ofNat 32 d.length := rfl
@[simp] theorem putDigest_offset (d : List Byte) (s : State) : (putDigest d s).offset = s.offset := rfl
@[simp] theorem putDigest_bincode (d : List Byte) (s : State) : (putDigest d s).bincode = s.bincode := rfl
@[simp] theorem putDigest_codeval (d : List Byte) (s : State) : (putDigest d s).codeval = s.codeval := rfl
@[simp] theorem putDigest_codedig (d : List Byte) (s : State) : (putDigest d s).codedig = s.codedig := rfl
@[simp] theorem putDigest_codelen (d : List Byte) (s : State) : (putDigest d s).codelen = s.codelen := rfl
@[simp] theorem putDigest_code (d : List Byte) (s : State) : (putDigest d s).code = s.code := rfl
@[simp] theorem putDigest_digest (d : List Byte) (s : State) : (putDigest d s).digest = bufOf _ d := rfl
@[simp] theorem putDigest_key (d : List Byte) (s : State) : (putDigest d s).key = s.key := rfl
@[simp] theorem putDigest_inbox (d : List Byte) (s : State) : (putDigest d s).inbox = s.inbox := rfl
@[simp] theorem putDigest_out (d : List Byte) (s : State) : (putDigest d s).out = s.out := rfl

@[simp] theorem putTrunc_err (r : TruncResult) (g : Word) (s : State) : (putTrunc r g s).err = s.err := rfl
@[simp] theorem putTrunc_alg (r : TruncResult) (g : Word) (s : State) : (putTrunc r g s).alg = s.alg := rfl
@[simp] theorem putTrunc_digits (r : TruncResult) (g : Word) (s : State) : (putTrunc r g s).digits = s.digits := rfl
@[simp] theorem putTrunc_klen (r : TruncResult) (g : Word) (s : State) : (putTrunc r g s).klen = s.klen := rfl
@[simp] theorem putTrunc_counter (r : TruncResult) (g : Word) (s : State) : (putTrunc r g s).counter = s.counter := rfl
@[simp] theorem putTrunc_msg (r : TruncResult) (g : Word) (s : State) : (putTrunc r g s).msg = s.msg := rfl
@[simp] theorem putTrunc_dlen (r : TruncResult) (g : Word) (s : State) : (putTrunc r g s).dlen = s.dlen := rfl
@[simp] theorem putTrunc_offset (r : TruncResult) (g : Word) (s : State) : (putTrunc r g s).offset = r.offset := rfl
@[simp] theorem putTrunc_bincode (r : TruncResult) (g : Word) (s : State) : (putTrunc r g s).bincode = r.p := rfl
@[simp] theorem putTrunc_codeval (r : TruncResult) (g : Word) (s : State) : (putTrunc r g s).codeval = r.code := rfl
@[simp] theorem putTrunc_codedig (r : TruncResult) (g : Word) (s : State) : (putTrunc r g s).codedig = g.setWidth 4 := rfl
@[simp] theorem putTrunc_codelen (r : TruncResult) (g : Word) (s : State) : (putTrunc r g s).codelen = s.codelen := rfl
@[simp] theorem putTrunc_code (r : TruncResult) (g : Word) (s : State) : (putTrunc r g s).code = s.code := rfl
@[simp] theorem putTrunc_digest (r : TruncResult) (g : Word) (s : State) : (putTrunc r g s).digest = s.digest := rfl
@[simp] theorem putTrunc_key (r : TruncResult) (g : Word) (s : State) : (putTrunc r g s).key = s.key := rfl
@[simp] theorem putTrunc_inbox (r : TruncResult) (g : Word) (s : State) : (putTrunc r g s).inbox = s.inbox := rfl
@[simp] theorem putTrunc_out (r : TruncResult) (g : Word) (s : State) : (putTrunc r g s).out = s.out := rfl

@[simp] theorem putCode_err (c : Buf Config.codeMax) (n : BitVec 4) (s : State) : (putCode c n s).err = s.err := rfl
@[simp] theorem putCode_alg (c : Buf Config.codeMax) (n : BitVec 4) (s : State) : (putCode c n s).alg = s.alg := rfl
@[simp] theorem putCode_digits (c : Buf Config.codeMax) (n : BitVec 4) (s : State) : (putCode c n s).digits = s.digits := rfl
@[simp] theorem putCode_klen (c : Buf Config.codeMax) (n : BitVec 4) (s : State) : (putCode c n s).klen = s.klen := rfl
@[simp] theorem putCode_counter (c : Buf Config.codeMax) (n : BitVec 4) (s : State) : (putCode c n s).counter = s.counter := rfl
@[simp] theorem putCode_msg (c : Buf Config.codeMax) (n : BitVec 4) (s : State) : (putCode c n s).msg = s.msg := rfl
@[simp] theorem putCode_dlen (c : Buf Config.codeMax) (n : BitVec 4) (s : State) : (putCode c n s).dlen = s.dlen := rfl
@[simp] theorem putCode_offset (c : Buf Config.codeMax) (n : BitVec 4) (s : State) : (putCode c n s).offset = s.offset := rfl
@[simp] theorem putCode_bincode (c : Buf Config.codeMax) (n : BitVec 4) (s : State) : (putCode c n s).bincode = s.bincode := rfl
@[simp] theorem putCode_codeval (c : Buf Config.codeMax) (n : BitVec 4) (s : State) : (putCode c n s).codeval = s.codeval := rfl
@[simp] theorem putCode_codedig (c : Buf Config.codeMax) (n : BitVec 4) (s : State) : (putCode c n s).codedig = s.codedig := rfl
@[simp] theorem putCode_codelen (c : Buf Config.codeMax) (n : BitVec 4) (s : State) : (putCode c n s).codelen = n := rfl
@[simp] theorem putCode_code (c : Buf Config.codeMax) (n : BitVec 4) (s : State) : (putCode c n s).code = c := rfl
@[simp] theorem putCode_digest (c : Buf Config.codeMax) (n : BitVec 4) (s : State) : (putCode c n s).digest = s.digest := rfl
@[simp] theorem putCode_key (c : Buf Config.codeMax) (n : BitVec 4) (s : State) : (putCode c n s).key = s.key := rfl
@[simp] theorem putCode_inbox (c : Buf Config.codeMax) (n : BitVec 4) (s : State) : (putCode c n s).inbox = s.inbox := rfl
@[simp] theorem putCode_out (c : Buf Config.codeMax) (n : BitVec 4) (s : State) : (putCode c n s).out = s.out := rfl

@[simp] theorem setOut_err (o : PortOut) (s : State) : (setOut o s).err = s.err := rfl
@[simp] theorem setOut_alg (o : PortOut) (s : State) : (setOut o s).alg = s.alg := rfl
@[simp] theorem setOut_digits (o : PortOut) (s : State) : (setOut o s).digits = s.digits := rfl
@[simp] theorem setOut_klen (o : PortOut) (s : State) : (setOut o s).klen = s.klen := rfl
@[simp] theorem setOut_counter (o : PortOut) (s : State) : (setOut o s).counter = s.counter := rfl
@[simp] theorem setOut_msg (o : PortOut) (s : State) : (setOut o s).msg = s.msg := rfl
@[simp] theorem setOut_dlen (o : PortOut) (s : State) : (setOut o s).dlen = s.dlen := rfl
@[simp] theorem setOut_offset (o : PortOut) (s : State) : (setOut o s).offset = s.offset := rfl
@[simp] theorem setOut_bincode (o : PortOut) (s : State) : (setOut o s).bincode = s.bincode := rfl
@[simp] theorem setOut_codeval (o : PortOut) (s : State) : (setOut o s).codeval = s.codeval := rfl
@[simp] theorem setOut_codedig (o : PortOut) (s : State) : (setOut o s).codedig = s.codedig := rfl
@[simp] theorem setOut_codelen (o : PortOut) (s : State) : (setOut o s).codelen = s.codelen := rfl
@[simp] theorem setOut_code (o : PortOut) (s : State) : (setOut o s).code = s.code := rfl
@[simp] theorem setOut_digest (o : PortOut) (s : State) : (setOut o s).digest = s.digest := rfl
@[simp] theorem setOut_key (o : PortOut) (s : State) : (setOut o s).key = s.key := rfl
@[simp] theorem setOut_inbox (o : PortOut) (s : State) : (setOut o s).inbox = s.inbox := rfl
@[simp] theorem setOut_out (o : PortOut) (s : State) : (setOut o s).out = o := rfl

@[simp] theorem setInbox_err (l : List PortIn) (s : State) : (setInbox l s).err = s.err := rfl
@[simp] theorem setInbox_alg (l : List PortIn) (s : State) : (setInbox l s).alg = s.alg := rfl
@[simp] theorem setInbox_digits (l : List PortIn) (s : State) : (setInbox l s).digits = s.digits := rfl
@[simp] theorem setInbox_klen (l : List PortIn) (s : State) : (setInbox l s).klen = s.klen := rfl
@[simp] theorem setInbox_counter (l : List PortIn) (s : State) : (setInbox l s).counter = s.counter := rfl
@[simp] theorem setInbox_msg (l : List PortIn) (s : State) : (setInbox l s).msg = s.msg := rfl
@[simp] theorem setInbox_dlen (l : List PortIn) (s : State) : (setInbox l s).dlen = s.dlen := rfl
@[simp] theorem setInbox_offset (l : List PortIn) (s : State) : (setInbox l s).offset = s.offset := rfl
@[simp] theorem setInbox_bincode (l : List PortIn) (s : State) : (setInbox l s).bincode = s.bincode := rfl
@[simp] theorem setInbox_codeval (l : List PortIn) (s : State) : (setInbox l s).codeval = s.codeval := rfl
@[simp] theorem setInbox_codedig (l : List PortIn) (s : State) : (setInbox l s).codedig = s.codedig := rfl
@[simp] theorem setInbox_codelen (l : List PortIn) (s : State) : (setInbox l s).codelen = s.codelen := rfl
@[simp] theorem setInbox_code (l : List PortIn) (s : State) : (setInbox l s).code = s.code := rfl
@[simp] theorem setInbox_digest (l : List PortIn) (s : State) : (setInbox l s).digest = s.digest := rfl
@[simp] theorem setInbox_key (l : List PortIn) (s : State) : (setInbox l s).key = s.key := rfl
@[simp] theorem setInbox_inbox (l : List PortIn) (s : State) : (setInbox l s).inbox = l := rfl
@[simp] theorem setInbox_out (l : List PortIn) (s : State) : (setInbox l s).out = s.out := rfl

@[simp] theorem present_err (p : PortIn) (s : State) : (present p s).err = s.err := rfl
@[simp] theorem present_alg (p : PortIn) (s : State) : (present p s).alg = s.alg := rfl
@[simp] theorem present_digits (p : PortIn) (s : State) : (present p s).digits = s.digits := rfl
@[simp] theorem present_klen (p : PortIn) (s : State) : (present p s).klen = s.klen := rfl
@[simp] theorem present_counter (p : PortIn) (s : State) : (present p s).counter = s.counter := rfl
@[simp] theorem present_msg (p : PortIn) (s : State) : (present p s).msg = s.msg := rfl
@[simp] theorem present_dlen (p : PortIn) (s : State) : (present p s).dlen = s.dlen := rfl
@[simp] theorem present_offset (p : PortIn) (s : State) : (present p s).offset = s.offset := rfl
@[simp] theorem present_bincode (p : PortIn) (s : State) : (present p s).bincode = s.bincode := rfl
@[simp] theorem present_codeval (p : PortIn) (s : State) : (present p s).codeval = s.codeval := rfl
@[simp] theorem present_codedig (p : PortIn) (s : State) : (present p s).codedig = s.codedig := rfl
@[simp] theorem present_codelen (p : PortIn) (s : State) : (present p s).codelen = s.codelen := rfl
@[simp] theorem present_code (p : PortIn) (s : State) : (present p s).code = s.code := rfl
@[simp] theorem present_digest (p : PortIn) (s : State) : (present p s).digest = s.digest := rfl
@[simp] theorem present_key (p : PortIn) (s : State) : (present p s).key = s.key := rfl
@[simp] theorem present_inbox (p : PortIn) (s : State) : (present p s).inbox = p :: s.inbox := rfl
@[simp] theorem present_out (p : PortIn) (s : State) : (present p s).out = s.out := rfl

@[simp] theorem reset_err : State.reset.err = .none := rfl
@[simp] theorem reset_alg : State.reset.alg = 0 := rfl
@[simp] theorem reset_digits : State.reset.digits = 0 := rfl
@[simp] theorem reset_klen : State.reset.klen = 0 := rfl
@[simp] theorem reset_counter : State.reset.counter = 0 := rfl
@[simp] theorem reset_msg : State.reset.msg = bufZero _ := rfl
@[simp] theorem reset_dlen : State.reset.dlen = 0 := rfl
@[simp] theorem reset_offset : State.reset.offset = 0 := rfl
@[simp] theorem reset_bincode : State.reset.bincode = 0 := rfl
@[simp] theorem reset_codeval : State.reset.codeval = 0 := rfl
@[simp] theorem reset_codedig : State.reset.codedig = 0 := rfl
@[simp] theorem reset_codelen : State.reset.codelen = 0 := rfl
@[simp] theorem reset_code : State.reset.code = bufZero _ := rfl
@[simp] theorem reset_digest : State.reset.digest = bufZero _ := rfl
@[simp] theorem reset_key : State.reset.key = bufZero _ := rfl
@[simp] theorem reset_inbox : State.reset.inbox = [] := rfl
@[simp] theorem reset_out : State.reset.out = .noAck := rfl

end Sys2Proof.Machine
end

