-- ==== Sys2Proof/Laws/Ops.lean ====
section
/-! SUPPORT. What the shared operations do: big-endian sequences (R7), buffers (R32, R46), and the ends of a command body
(R8, R160). -/

namespace Sys2Proof.Machine

@[simp] theorem toBE_length (n v : Nat) : (toBE n v).length = n := by simp [toBE]

theorem toBE_getD (n v i : Nat) (h : i < n) : (toBE n v).getD i 0 = BitVec.ofNat 8 (v / 256 ^ (n - 1 - i)) := by
  simp [toBE, List.getD, h]

theorem toBE_succ (n v : Nat) : toBE (n + 1) v = toBE n (v / 256) ++ [BitVec.ofNat 8 v] := by
  simp only [toBE, List.range_succ, List.map_append, List.map_cons, List.map_nil]
  congr 1
  · apply List.map_congr_left
    intro i hi
    have : i < n := List.mem_range.mp hi
    rw [Nat.div_div_eq_div_mul, ← Nat.pow_succ']
    congr 3
    omega
  · simp

theorem beNat_append_singleton (l : List Byte) (b : Byte) : beNat (l ++ [b]) = beNat l * 256 + b.toNat := by
  simp [beNat]

theorem beNat_lt (l : List Byte) : beNat l < 256 ^ l.length := by
  induction l using List.reverseRecOn with
  | nil => simp [beNat]
  | append_singleton l b ih =>
    rw [beNat_append_singleton, List.length_append, List.length_singleton, Nat.pow_succ]
    have := b.isLt
    omega

/-- `BE` undoes `toBE` on a number that fits (R7). -/
theorem beNat_toBE (n v : Nat) (h : v < 256 ^ n) : beNat (toBE n v) = v := by
  induction n generalizing v with
  | zero => simp [toBE, beNat] at *; omega
  | succ n ih =>
    rw [toBE_succ, beNat_append_singleton, ih _ (by rw [Nat.pow_succ] at h; omega)]
    simp
    omega

/-- `toBE` undoes `BE` (R7). -/
theorem toBE_beNat (l : List Byte) : toBE l.length (beNat l) = l := by
  induction l using List.reverseRecOn with
  | nil => simp [toBE]
  | append_singleton l b ih =>
    rw [List.length_append, List.length_singleton, toBE_succ, beNat_append_singleton]
    have hb := b.isLt
    congr 1
    · rw [show (beNat l * 256 + b.toNat) / 256 = beNat l by omega, ih]
    · simp [BitVec.ofNat_add, BitVec.ofNat_mul]

@[simp] theorem bufOf_toList (n : Nat) (l : List Byte) : (bufOf n l).toList = (l ++ List.replicate n 0).take n := rfl

@[simp] theorem bufZero_toList (n : Nat) : (bufZero n).toList = List.replicate n 0 := by simp [bufZero]

theorem bufByte_of_lt {n : Nat} (b : Buf n) (i : Nat) (h : i < n) : bufByte b i = b[i] := by
  simp [bufByte, List.getD, h]

theorem bufByte_of_ge {n : Nat} (b : Buf n) (i : Nat) (h : n ≤ i) : bufByte b i = 0 := by
  simp [bufByte, List.getD, h]

/-- Two buffers with the same bytes are the same (R32). -/
theorem buf_ext {n : Nat} {a b : Buf n} (h : ∀ i, i < n → bufByte a i = bufByte b i) : a = b := by
  apply Vector.ext
  intro i hi
  simpa [bufByte_of_lt, hi] using h i hi

/-- The bytes of a buffer made from a sequence: the sequence, then zeros. -/
theorem bufByte_bufOf (n : Nat) (l : List Byte) (i : Nat) :
    bufByte (bufOf n l) i = if i < n then l.getD i 0 else 0 := by
  simp only [bufByte, bufOf_toList, List.getD, List.getElem?_take]
  split
  · rename_i h
    by_cases hl : i < l.length
    · simp [List.getElem?_append_left hl]
    · rw [List.getElem?_append_right (by omega), List.getElem?_eq_none (l := l) (by omega)]
      by_cases hr : i - l.length < n <;> simp [hr]
  · simp

@[simp] theorem bufByte_bufZero (n i : Nat) : bufByte (bufZero n) i = 0 := by
  by_cases h : i < n <;> simp [bufByte, List.getD, h]

theorem bufOf_nil (n : Nat) : bufOf n [] = bufZero n := by
  apply buf_ext; intro i hi; simp [bufByte_bufOf]

/-- A buffer made from a whole sequence lists it. -/
theorem bufOf_toList_of_length {n : Nat} {l : List Byte} (h : l.length = n) : (bufOf n l).toList = l := by
  simp [bufOf_toList, ← h]

theorem bufByte_set {n : Nat} (b : Buf n) (i j : Nat) (x : Byte) :
    bufByte (b.setIfInBounds i x) j = if i = j ∧ i < n then x else bufByte b j := by
  by_cases hj : j < n
  · rw [bufByte_of_lt _ _ hj, bufByte_of_lt _ _ hj, Vector.getElem_setIfInBounds]
    by_cases h : i = j <;> simp [h, hj]
  · rw [bufByte_of_ge _ _ (by omega), bufByte_of_ge _ _ (by omega)]
    split
    · omega
    · rfl

/-- The bytes of a buffer after a word write: the four lanes, and every other byte as before (R46). -/
theorem bufByte_setWord {n : Nat} (b : Buf n) (w : Nat) (v : Word) (i : Nat) (h : 4 * w + 3 < n) :
    bufByte (bufSetWord b w v) i = if i / 4 = w then laneByte v (i % 4) else bufByte b i := by
  simp only [bufSetWord, bufByte_set]
  by_cases hw : i / 4 = w
  · have : i % 4 = 0 ∨ i % 4 = 1 ∨ i % 4 = 2 ∨ i % 4 = 3 := by omega
    rcases this with h4 | h4 | h4 | h4 <;> rw [if_pos hw, h4]
    · rw [if_neg (by omega), if_neg (by omega), if_neg (by omega), if_pos (by omega)]
    · rw [if_neg (by omega), if_neg (by omega), if_pos (by omega)]
    · rw [if_neg (by omega), if_pos (by omega)]
    · rw [if_pos (by omega)]
  · rw [if_neg hw, if_neg (by omega), if_neg (by omega), if_neg (by omega), if_neg (by omega)]

/-- A word is the four lanes it is read from (R46). -/
theorem lanes_append (v : Word) : laneByte v 3 ++ laneByte v 2 ++ laneByte v 1 ++ laneByte v 0 = v := by
  apply BitVec.eq_of_getLsbD_eq
  intro i hi
  simp only [laneByte, BitVec.getLsbD_append, BitVec.getLsbD_extractLsb']
  by_cases h1 : i < 8
  · simp [h1]
  · by_cases h2 : i - 8 < 8
    · simp [h1, h2]; congr 1; omega
    · by_cases h3 : i - 8 - 8 < 8
      · simp [h1, h2, h3]; congr 1; omega
      · have h4 : i - 8 - 8 - 8 < 8 := by omega
        simp [h1, h2, h3, h4]; congr 1; omega

/-- A word written to a buffer is the word read back (R46). -/
theorem bufWord_setWord {n : Nat} (b : Buf n) (w : Nat) (v : Word) (h : 4 * w + 3 < n) :
    bufWord (bufSetWord b w v) w = v := by
  have hb (j : Nat) (hj : j < 4) : bufByte (bufSetWord b w v) (4 * w + j) = laneByte v j := by
    rw [bufByte_setWord b w v _ h, if_pos (by omega)]; congr 1; omega
  have h0 := hb 0 (by omega)
  rw [Nat.add_zero] at h0
  rw [bufWord, hb 3 (by omega), hb 2 (by omega), hb 1 (by omega), h0, lanes_append]

@[simp] theorem bufWord_bufZero (n w : Nat) : bufWord (bufZero n) w = 0 := by
  simp only [bufWord, bufByte_bufZero]; decide

@[simp] theorem andThen_done (s : State) (f : State → Stage) : andThen (.done s) f = f s := rfl

@[simp] theorem andThen_raised (e : ErrCode) (s : State) (f : State → Stage) :
    andThen (.raised e s) f = .raised e s := rfl

@[simp] theorem finish_done (s : State) : finish (.done s) = s := rfl

@[simp] theorem finish_raised (e : ErrCode) (s : State) : finish (.raised e s) = setErr e s := rfl

/-- The reset state of the block is its state before the first input (R35). -/
theorem resetBlock_eq (s : State) : resetBlock s = { State.reset with inbox := s.inbox, out := s.out } := rfl

/-- The scrub twice is the scrub once (R163). -/
theorem scrub_scrub (s : State) : scrub (scrub s) = scrub s := rfl

end Sys2Proof.Machine
end

