-- ==== Sys2Proof/Laws/Hash.lean ====
section
/-! SUPPORT. What the hash functions and the keyed hash do: padding and parsing (R91, R101, R111), the message schedules
(R94, R104, R114), the rounds one by one, and the lengths of what they return (R90, R100, R110, R124). -/

namespace Sys2Proof.Machine

@[simp] theorem pieces_length (size n : Nat) (l : List Byte) : (pieces size n l).length = n := by
  induction n generalizing l with
  | zero => rfl
  | succ n ih => simp [pieces, ih]

/-- Every piece of a long enough sequence is whole. -/
theorem pieces_whole (size n : Nat) (l : List Byte) (h : size * n ≤ l.length) :
    ∀ p ∈ pieces size n l, p.length = size := by
  induction n generalizing l with
  | zero => simp [pieces]
  | succ n ih =>
    rw [Nat.mul_succ] at h
    intro p hp
    rcases List.mem_cons.mp hp with rfl | hp
    · simp; omega
    · exact ih (l.drop size) (by simp; omega) p hp

/-- The pieces put together are the sequence they were cut from. -/
theorem pieces_flatten (size n : Nat) (l : List Byte) (h : l.length = size * n) : (pieces size n l).flatten = l := by
  induction n generalizing l with
  | zero => simp [pieces]; exact List.eq_nil_of_length_eq_zero (by omega)
  | succ n ih =>
    rw [pieces, List.flatten_cons, ih (l.drop size) (by rw [List.length_drop, h, Nat.mul_succ]; omega),
      List.take_append_drop]

/-- How many zero bytes the padding adds (R91, R111). -/
def padZeros (blk lenBytes n : Nat) : Nat := (blk - (n + 1 + lenBytes) % blk) % blk

theorem padMsg_eq (blk lenBytes : Nat) (m : List Byte) :
    padMsg blk lenBytes m =
      m ++ [0x80] ++ List.replicate (padZeros blk lenBytes m.length) 0 ++ toBE lenBytes (8 * m.length) := rfl

theorem padMsg_length (blk lenBytes : Nat) (m : List Byte) :
    (padMsg blk lenBytes m).length = m.length + 1 + padZeros blk lenBytes m.length + lenBytes := by
  simp [padMsg_eq]; omega

/-- The padding fills whole blocks (R91, R111). -/
theorem padZeros_fills (blk lenBytes n : Nat) (h : 0 < blk) :
    (n + 1 + padZeros blk lenBytes n + lenBytes) % blk = 0 := by
  have hr := Nat.mod_lt (n + 1 + lenBytes) h
  have e : n + 1 + padZeros blk lenBytes n + lenBytes = n + 1 + lenBytes + padZeros blk lenBytes n := by omega
  rw [e, padZeros, Nat.add_mod, Nat.mod_mod]
  by_cases h0 : (n + 1 + lenBytes) % blk = 0
  · simp [h0]
  · rw [Nat.mod_eq_of_lt (show blk - (n + 1 + lenBytes) % blk < blk by omega),
      show (n + 1 + lenBytes) % blk + (blk - (n + 1 + lenBytes) % blk) = blk by omega, Nat.mod_self]

/-- The padding adds the fewest zeros that fill whole blocks (R91, R111). -/
theorem padZeros_least (blk lenBytes n z : Nat) (h : (n + 1 + z + lenBytes) % blk = 0) :
    padZeros blk lenBytes n ≤ z := by
  by_contra hz
  have hb : 0 < blk := by
    rcases Nat.eq_zero_or_pos blk with rfl | hb
    · simp [padZeros] at hz
    · exact hb
  have hr := Nat.mod_lt (n + 1 + lenBytes) hb
  have hp : padZeros blk lenBytes n < blk := Nat.mod_lt _ hb
  rw [show n + 1 + z + lenBytes = n + 1 + lenBytes + z by omega, Nat.add_mod,
    Nat.mod_eq_of_lt (show z < blk by omega)] at h
  unfold padZeros at hz hp
  by_cases h0 : (n + 1 + lenBytes) % blk = 0
  · simp [h0] at hz
  · rw [Nat.mod_eq_of_lt (show blk - (n + 1 + lenBytes) % blk < blk by omega)] at hz
    rw [Nat.mod_eq_of_lt (by omega)] at h
    omega

theorem msgBlocks_length (blk lenBytes : Nat) (m : List Byte) :
    (msgBlocks blk lenBytes m).length = (padMsg blk lenBytes m).length / blk := by simp [msgBlocks]

/-- The blocks of a message are whole and make up its padding (R91, R111). -/
theorem msgBlocks_spec (blk lenBytes : Nat) (m : List Byte) (h : 0 < blk) :
    (∀ b ∈ msgBlocks blk lenBytes m, b.length = blk) ∧ (msgBlocks blk lenBytes m).flatten = padMsg blk lenBytes m := by
  have hd : blk * ((padMsg blk lenBytes m).length / blk) = (padMsg blk lenBytes m).length := by
    rw [padMsg_length]
    exact Nat.mul_div_cancel' (Nat.dvd_of_mod_eq_zero (padZeros_fills blk lenBytes m.length h))
  exact ⟨pieces_whole _ _ _ (by omega), pieces_flatten _ _ _ hd.symm⟩

@[simp] theorem blockWords_length (w : Nat) (b : List Byte) : (blockWords w b).length = 16 := by simp [blockWords]

@[simp] theorem extend_length {w : Nat} (next : List (BitVec w) → BitVec w) (n : Nat) (ws : List (BitVec w)) :
    (extend next n ws).length = ws.length + n := by
  induction n generalizing ws with
  | zero => rfl
  | succ n ih => simp [extend, ih]; omega

/-- Extending a schedule keeps the words it has, and each new word is `next` of the words before it. -/
theorem extend_drop {w : Nat} (next : List (BitVec w) → BitVec w) (n j : Nat) (ws : List (BitVec w)) (h : j ≤ n) :
    (extend next n ws).drop j = extend next (n - j) ws := by
  induction n generalizing ws j with
  | zero => simp [show j = 0 by omega]
  | succ n ih =>
    rcases Nat.eq_zero_or_pos j with rfl | hj
    · simp
    · by_cases hn : j ≤ n
      · rw [extend, ih j (next ws :: ws) hn, show n + 1 - j = (n - j) + 1 by omega, extend]
      · obtain rfl : j = n + 1 := by omega
        rw [extend, Nat.sub_self, extend]
        have := ih n (next ws :: ws) (Nat.le_refl n)
        rw [Nat.sub_self, extend] at this
        rw [← List.drop_drop, this]
        rfl

theorem extend_cons {w : Nat} (next : List (BitVec w) → BitVec w) (n : Nat) (ws : List (BitVec w)) :
    extend next (n + 1) ws = next (extend next n ws) :: extend next n ws := by
  induction n generalizing ws with
  | zero => rfl
  | succ n ih => exact ih (next ws :: ws)

@[simp] theorem schedule_length {w : Nat} (next : List (BitVec w) → BitVec w) (n : Nat) (b : List Byte) :
    (schedule next n b).length = 16 + n := by simp [schedule]

theorem schedule_getD {w : Nat} (next : List (BitVec w) → BitVec w) (n t : Nat) (b : List Byte) (h : t < 16 + n) :
    (schedule next n b).getD t 0 = (extend next n (blockWords w b).reverse).getD (15 + n - t) 0 := by
  simp only [schedule, List.getD]
  rw [List.getElem?_reverse (by simpa using h)]
  simp only [extend_length, List.length_reverse, blockWords_length]
  congr 3
  omega

/-- The first sixteen words of a schedule are the block's (R94, R104, R114). -/
theorem schedule_getD_low {w : Nat} (next : List (BitVec w) → BitVec w) (n t : Nat) (b : List Byte) (h : t < 16) :
    (schedule next n b).getD t 0 = (blockWords w b).getD t 0 := by
  rw [schedule_getD next n t b (by omega)]
  have hd := extend_drop next n n (blockWords w b).reverse (Nat.le_refl n)
  rw [Nat.sub_self, extend] at hd
  simp only [List.getD]
  rw [show 15 + n - t = n + (15 - t) by omega, ← List.getElem?_drop, hd, List.getElem?_reverse (by simp; omega)]
  simp only [blockWords_length]
  congr 3
  omega

/-- Each later word of a schedule is `next` of the words before it; `back` counts back from it (R94, R104, R114). -/
theorem schedule_getD_high {w : Nat} (next : List (BitVec w) → BitVec w) (n t : Nat) (b : List Byte) (h : 16 ≤ t)
    (hn : t < 16 + n) :
    ∃ ws : List (BitVec w), (schedule next n b).getD t 0 = next ws ∧
      ∀ k, 1 ≤ k → k ≤ 16 → back ws k = (schedule next n b).getD (t - k) 0 := by
  refine ⟨extend next (t - 16) (blockWords w b).reverse, ?_, ?_⟩
  · have hd := extend_drop next n (15 + n - t) (blockWords w b).reverse (by omega)
    rw [show n - (15 + n - t) = (t - 16) + 1 by omega, extend_cons] at hd
    rw [schedule_getD next n t b hn]
    simp only [List.getD]
    rw [← Nat.add_zero (15 + n - t), ← List.getElem?_drop, hd]
    rfl
  · intro k h1 h2
    have hd := extend_drop next n (16 + n - t) (blockWords w b).reverse (by omega)
    rw [show n - (16 + n - t) = t - 16 by omega] at hd
    rw [schedule_getD next n (t - k) b (by omega), ← hd]
    simp only [back, List.getD, List.getElem?_drop]
    congr 3
    omega

/-- Consecutive bytes of a sequence, one by one. -/
theorem take_drop_eq (l : List Byte) (start n : Nat) (h : start + n ≤ l.length) :
    (l.drop start).take n = (List.range n).map fun j => l.getD (start + j) 0 := by
  apply List.ext_getElem
  · simp; omega
  · intro i h1 h2
    have : start + i < l.length := by simp at h2; omega
    simp [List.getD, this]

/-- Piece `j` of a byte sequence. -/
theorem pieces_getD (size n j : Nat) (l : List Byte) (h : j < n) :
    (pieces size n l).getD j [] = (l.drop (size * j)).take size := by
  induction n generalizing j l with
  | zero => omega
  | succ n ih =>
    cases j with
    | zero => simp [pieces]
    | succ j =>
      simp only [pieces, List.getD_cons_succ, ih j (l.drop size) (by omega), List.drop_drop]
      congr 2
      ring

/-- Word `t` of a block is its `w / 8` bytes, big-endian (R91, R101, R111). -/
theorem blockWords_getD (w t : Nat) (b : List Byte) (ht : t < 16) (h : w / 8 * 16 ≤ b.length) :
    (blockWords w b).getD t 0 =
      BitVec.ofNat w (beNat ((List.range (w / 8)).map fun j => b.getD (w / 8 * t + j) 0)) := by
  have hfit : w / 8 * t + w / 8 ≤ b.length := by
    have := Nat.mul_le_mul_left (w / 8) (show t + 1 ≤ 16 by omega)
    rw [Nat.mul_add, Nat.mul_one] at this
    omega
  rw [← take_drop_eq b (w / 8 * t) (w / 8) hfit, ← pieces_getD (w / 8) 16 t b ht]
  simp [blockWords, List.getD, ht]

/-- A fold, value by value. -/
theorem foldl_trace {α β : Type} (f : α → β → α) (d : β) (l : List β) (x : α) :
    ∃ R : Nat → α, R 0 = x ∧ (∀ i, i < l.length → R (i + 1) = f (R i) (l.getD i d)) ∧ l.foldl f x = R l.length := by
  induction l generalizing x with
  | nil => exact ⟨fun _ => x, rfl, by simp, rfl⟩
  | cons y l ih =>
    obtain ⟨R, h0, hs, he⟩ := ih (f x y)
    refine ⟨fun n => match n with | 0 => x | n + 1 => R n, rfl, fun i hi => ?_, he⟩
    cases i with
    | zero => exact h0
    | succ i => exact hs i (by simpa using hi)

/-- The rounds of SHA-1, one by one (R94). -/
theorem sha1Rounds_trace (t : Nat) (ws : List Word) (s : Sha1Words) :
    ∃ R : Nat → Sha1Words, R 0 = s ∧ (∀ i, i < ws.length → R (i + 1) = sha1Round (R i) (t + i) (ws.getD i 0)) ∧
      sha1Rounds t ws s = R ws.length := by
  induction ws generalizing t s with
  | nil => exact ⟨fun _ => s, rfl, by simp, rfl⟩
  | cons w ws ih =>
    obtain ⟨R, h0, hs, he⟩ := ih (t + 1) (sha1Round s t w)
    refine ⟨fun n => match n with | 0 => s | n + 1 => R n, rfl, fun i hi => ?_, he⟩
    cases i with
    | zero => exact h0
    | succ i => rw [show t + (i + 1) = t + 1 + i by omega]; exact hs i (by simpa using hi)

/-- The rounds of SHA-256 and SHA-512, one by one (R104, R114). -/
theorem sha2Rounds_trace {w : Nat} (p : Sha2 w) (ks xs : List (BitVec w)) (s : Sha2Words w)
    (h : ks.length = xs.length) :
    ∃ R : Nat → Sha2Words w, R 0 = s ∧
      (∀ i, i < ks.length → R (i + 1) = sha2Round p (R i) (ks.getD i 0) (xs.getD i 0)) ∧
      sha2Rounds p ks xs s = R ks.length := by
  induction ks generalizing xs s with
  | nil => exact ⟨fun _ => s, rfl, by simp, by cases xs <;> rfl⟩
  | cons k ks ih =>
    obtain - | ⟨x, xs⟩ := xs
    · simp at h
    · obtain ⟨R, h0, hs, he⟩ := ih xs (sha2Round p s k x) (by simpa using h)
      refine ⟨fun n => match n with | 0 => s | n + 1 => R n, rfl, fun i hi => ?_, he⟩
      cases i with
      | zero => exact h0
      | succ i => exact hs i (by simpa using hi)

@[simp] theorem sha1_length (m : List Byte) : (sha1 m).length = 20 := by simp [sha1]

theorem sha2_length {w : Nat} (p : Sha2 w) (blk lenBytes : Nat) (m : List Byte) :
    (sha2 p blk lenBytes m).length = 8 * (w / 8) := by simp [sha2]; omega

@[simp] theorem sha256_length (m : List Byte) : (sha256 m).length = 32 := sha2_length _ _ _ _

@[simp] theorem sha512_length (m : List Byte) : (sha512 m).length = 64 := sha2_length _ _ _ _

/-- A hash has `L` bytes (R121). -/
@[simp] theorem hashFn_length (a : HashAlg) (m : List Byte) : (hashFn a m).length = digestLen a := by
  cases a <;> simp [hashFn, digestLen]

/-- `L` is at most `B` (R122). -/
theorem digestLen_le (a : HashAlg) : digestLen a ≤ blockSize a := by cases a <;> decide

/-- The normalised key is one block (R122). -/
@[simp] theorem normKey_length (a : HashAlg) (k : List Byte) : (normKey a k).length = blockSize a := by
  have h := digestLen_le a
  simp only [normKey]
  split <;> simp <;> omega

/-- A keyed hash has `L` bytes (R124). -/
@[simp] theorem hmac_length (a : HashAlg) (k m : List Byte) : (hmac a k m).length = digestLen a := by simp [hmac]

/-- A digest fits the digest buffer, and its length is one of the three of the whitelist (R124). -/
theorem digestLen_cases (a : HashAlg) : digestLen a = 20 ∨ digestLen a = 32 ∨ digestLen a = 64 := by cases a <;> decide

theorem digestLenOk_ofNat (a : HashAlg) : digestLenOk (BitVec.ofNat 32 (digestLen a)) = true := by cases a <;> decide

end Sys2Proof.Machine
end

