-- ==== Sys2Proof/Laws/Commands.lean ====
section
/-! SUPPORT. What each command can do, said once: one lemma per way it can end (R82, R127, R142, R153, R160, R166). -/

namespace Sys2Proof.Machine

/-- The unsupported tags (R65). -/
theorem algOf_eq_none_iff (t : Word) : algOf t = none ↔ t ≠ 1 ∧ t ≠ 2 ∧ t ≠ 3 := by
  constructor
  · intro h
    refine ⟨?_, ?_, ?_⟩ <;> rintro rfl <;> simp [algOf] at h
  · rintro ⟨h1, h2, h3⟩
    have e1 : t.toNat ≠ 1 := fun h => h1 (BitVec.eq_of_toNat_eq h)
    have e2 : t.toNat ≠ 2 := fun h => h2 (BitVec.eq_of_toNat_eq h)
    have e3 : t.toNat ≠ 3 := fun h => h3 (BitVec.eq_of_toNat_eq h)
    unfold algOf
    split <;> first | contradiction | rfl

/-- The supported tags (R65). -/
theorem algOf_eq_some_iff (t : Word) (a : HashAlg) : algOf t = some a ↔ t = algTag a := by
  constructor
  · intro h
    unfold algOf at h
    split at h <;> first
      | (rename_i e; cases h; exact BitVec.eq_of_toNat_eq e)
      | cases h
  · rintro rfl
    cases a <;> rfl

theorem klenOk_iff (s : State) : klenOk s = true ↔ s.klen.toNat ≤ 256 := by simp [klenOk]

theorem digitsOk_iff (g : Word) : digitsOk g = true ↔ 1 ≤ g.toNat ∧ g.toNat ≤ 9 := by simp [digitsOk]

theorem digestLenOk_iff (n : Word) : digestLenOk n = true ↔ n.toNat = 20 ∨ n.toNat = 32 ∨ n.toNat = 64 := by
  simp [digestLenOk, or_assoc]

@[simp] theorem encodeCounter_length (c : DWord) : (encodeCounter c).length = 8 := by simp [encodeCounter]

@[simp] theorem decFormat_length (v d : Nat) : (decFormat v d).length = d := by simp [decFormat]

/-- The one way `ENCODE` ends (R82). -/
theorem execEncode_eq (s : State) : execEncode s = .next (putMsg (encodeCounter s.counter) (setErr .none s)) := rfl

/-- `HMAC` under an unsupported tag (R127). -/
theorem execHmac_unsupported (s : State) (h : algOf s.alg = none) :
    execHmac s = .next (setErr .unsupportedAlgorithm (clearDigest (setErr .none s))) := by
  simp [execHmac, runBody, hmacBody, h]

/-- `HMAC` with a key too long (R127). -/
theorem execHmac_tooLong (s : State) (a : HashAlg) (h : algOf s.alg = some a) (hk : klenOk s = false) :
    execHmac s = .next (setErr .keyTooLong (clearDigest (setErr .none s))) := by
  have hk' : klenOk (clearDigest (setErr .none s)) = false := hk
  simp [execHmac, runBody, hmacBody, h, hk']

/-- `HMAC` with a supported tag and a key that fits (R127). -/
theorem execHmac_ok (s : State) (a : HashAlg) (h : algOf s.alg = some a) (hk : klenOk s = true) :
    execHmac s =
      .next (putDigest (hmac a (keyBytes s) (msgBytes s)) (clearDigest (setErr .none s))) := by
  have hk' : klenOk (clearDigest (setErr .none s)) = true := hk
  simp [execHmac, runBody, hmacBody, h, hk']
  rfl

/-- Dynamic truncation of a digest of a wrong length (R135). -/
theorem dynTrunc_badLength (d : Buf Config.digestMax) (n g : Word) (h : digestLenOk n = false) :
    dynTrunc d n g = .error .invalidDigestLength := by simp [dynTrunc, h]

/-- The bound test of a digest of a right length never fires (R136, R145). -/
theorem truncOffset_fits (d : Buf Config.digestMax) (n : Word) (h : digestLenOk n = true) :
    (truncOffset d n.toNat).toNat + 4 ≤ n.toNat := by
  have := (truncOffset d n.toNat).isLt
  rcases (digestLenOk_iff n).mp h with h | h | h <;> omega

/-- Dynamic truncation under a width that is not legal (R140). -/
theorem dynTrunc_badDigits (d : Buf Config.digestMax) (n g : Word) (h : digestLenOk n = true)
    (hg : digitsOk g = false) : dynTrunc d n g = .error .invalidDigits := by
  have := truncOffset_fits d n h
  simp [dynTrunc, h, hg]
  omega

/-- Dynamic truncation that succeeds (R141). -/
theorem dynTrunc_ok (d : Buf Config.digestMax) (n g : Word) (h : digestLenOk n = true) (hg : digitsOk g = true) :
    dynTrunc d n g = .ok
      { offset := truncOffset d n.toNat
        p := truncMask (truncWindow d (truncOffset d n.toNat).toNat)
        code := truncReduce (truncMask (truncWindow d (truncOffset d n.toNat).toNat)) g.toNat } := by
  have := truncOffset_fits d n h
  simp [dynTrunc, h, hg]
  omega

/-- `TRUNC` that raises (R142). -/
theorem execTrunc_error (s : State) (e : ErrCode) (h : dynTrunc s.digest s.dlen s.digits = .error e) :
    execTrunc s = .next (setErr e (clearTrunc (setErr .none s))) := by
  simp [execTrunc, runBody, truncBody, h]

/-- `TRUNC` that succeeds (R142). -/
theorem execTrunc_ok (s : State) (r : TruncResult) (h : dynTrunc s.digest s.dlen s.digits = .ok r) :
    execTrunc s = .next (putTrunc r s.digits (clearTrunc (setErr .none s))) := by
  simp [execTrunc, runBody, truncBody, h]

/-- The one way `FORMAT` ends (R153). -/
theorem execFormat_eq (s : State) :
    execFormat s = .next (putCode (codeBytes s.codeval s.codedig) s.codedig (clearCode (setErr .none s))) := rfl

/-- The one way `CLEAR` ends (R166). -/
theorem execClear_eq (s : State) : execClear s = .next (resetBlock s) := rfl

/-- `HOTP` whose keyed hash raises under an unsupported tag (R160). -/
theorem execHotp_unsupported (s : State) (h : algOf s.alg = none) :
    execHotp s = .next (setErr .unsupportedAlgorithm (scrub (clearCode s))) := by
  simp [execHotp, hotpStages, encodeBody, hmacBody, h]
  rfl

/-- `HOTP` whose keyed hash raises on a key too long (R160). -/
theorem execHotp_tooLong (s : State) (a : HashAlg) (h : algOf s.alg = some a) (hk : klenOk s = false) :
    execHotp s = .next (setErr .keyTooLong (scrub (clearCode s))) := by
  have hk' : klenOk (clearDigest (putMsg (encodeCounter s.counter) (clearCode (setErr .none s)))) = false := hk
  simp [execHotp, hotpStages, encodeBody, hmacBody, h, hk']
  rfl

/-- The digest `HOTP` makes: the keyed hash of the counter as it stands (R161). -/
def hotpDigest (a : HashAlg) (s : State) : List Byte := hmac a (keyBytes s) (encodeCounter s.counter)

@[simp] theorem hotpDigest_length (a : HashAlg) (s : State) : (hotpDigest a s).length = digestLen a := by
  simp [hotpDigest]

/-- The second stage of `HOTP` that succeeds (R160). -/
theorem hmacBody_in_hotp (s : State) (a : HashAlg) (h : algOf s.alg = some a) (hk : klenOk s = true) :
    hmacBody (putMsg (encodeCounter s.counter) s) =
      .done (putDigest (hotpDigest a s) (clearDigest (putMsg (encodeCounter s.counter) s))) := by
  have hk' : klenOk (clearDigest (putMsg (encodeCounter s.counter) s)) = true := hk
  have hm : msgBytes (clearDigest (putMsg (encodeCounter s.counter) s)) = encodeCounter s.counter :=
    bufOf_toList_of_length (encodeCounter_length _)
  have hkb : keyBytes (clearDigest (putMsg (encodeCounter s.counter) s)) = keyBytes s := rfl
  simp [hmacBody, h, hk', hm, hkb, hotpDigest]

/-- `HOTP` that raises in its third stage: the width is not legal (R160, R162). -/
theorem execHotp_badDigits (s : State) (a : HashAlg) (h : algOf s.alg = some a) (hk : klenOk s = true)
    (hg : digitsOk s.digits = false) : execHotp s = .next (setErr .invalidDigits (scrub (clearCode s))) := by
  have hb := hmacBody_in_hotp (clearCode (setErr .none s)) a h hk
  have ht := dynTrunc_badDigits (bufOf _ (hotpDigest a (clearCode (setErr .none s))))
    (BitVec.ofNat 32 (digestLen a)) s.digits (digestLenOk_ofNat a) hg
  simp only [setErr_counter, clearCode_counter] at hb
  simp [execHotp, hotpStages, encodeBody, hb, truncBody, ht]
  rfl

/-- What `HOTP` leaves in `CODE` when it succeeds: the truncation of its digest, formatted (R161). -/
def hotpTrunc (a : HashAlg) (s : State) : TruncResult :=
  let d : Buf Config.digestMax := bufOf _ (hotpDigest a s)
  let o := truncOffset d (digestLen a)
  let p := truncMask (truncWindow d o.toNat)
  { offset := o, p := p, code := truncReduce p s.digits.toNat }

/-- `HOTP` that succeeds (R160, R161). -/
theorem execHotp_ok (s : State) (a : HashAlg) (h : algOf s.alg = some a) (hk : klenOk s = true)
    (hg : digitsOk s.digits = true) :
    execHotp s = .next (scrub (putCode (codeBytes (hotpTrunc a s).code (s.digits.setWidth 4)) (s.digits.setWidth 4)
      (setErr .none s))) := by
  have hb := hmacBody_in_hotp (clearCode (setErr .none s)) a h hk
  have ht := dynTrunc_ok (bufOf _ (hotpDigest a (clearCode (setErr .none s))))
    (BitVec.ofNat 32 (digestLen a)) s.digits (digestLenOk_ofNat a) hg
  have hl : (BitVec.ofNat 32 (digestLen a)).toNat = digestLen a := by cases a <;> rfl
  simp only [setErr_counter, clearCode_counter] at hb
  rw [hl] at ht
  simp [execHotp, hotpStages, encodeBody, hb, truncBody, ht, formatBody]
  rfl

/-- A reduced value fits its width, and is the remainder (R139). -/
theorem truncReduce_toNat (p : BitVec 31) (g : Nat) (h : g ≤ 9) : (truncReduce p g).toNat = p.toNat % 10 ^ g := by
  have h10 : 10 ^ g ≤ 10 ^ 9 := Nat.pow_le_pow_right (by omega) h
  have hlt : p.toNat % 10 ^ g < 10 ^ g := Nat.mod_lt _ (Nat.pow_pos (by omega))
  simp only [truncReduce, BitVec.toNat_ofNat]
  exact Nat.mod_eq_of_lt (by omega)

/-- A legal width as `CODEDIG` holds it (R25). -/
theorem setWidth_digits_toNat (g : Word) (h : digitsOk g = true) : (g.setWidth 4).toNat = g.toNat := by
  have := (digitsOk_iff g).mp h
  simp [BitVec.toNat_setWidth]
  omega

/-- The window is the four bytes, most significant first (R137). -/
theorem truncWindow_toNat (d : Buf Config.digestMax) (o : Nat) :
    (truncWindow d o).toNat = (bufByte d o).toNat * 2 ^ 24 + (bufByte d (o + 1)).toNat * 2 ^ 16 +
      (bufByte d (o + 2)).toNat * 2 ^ 8 + (bufByte d (o + 3)).toNat := by
  have h0 := (bufByte d o).isLt
  have h1 := (bufByte d (o + 1)).isLt
  have h2 := (bufByte d (o + 2)).isLt
  have h3 := (bufByte d (o + 3)).isLt
  simp only [truncWindow, beNat, List.foldl, BitVec.toNat_ofNat]
  omega

/-- The mask clears the sign bit (R138). -/
theorem truncMask_toNat (v : Word) : (truncMask v).toNat = v.toNat % 2 ^ 31 := by
  have hm : (0x7FFFFFFF#32).toNat = 2 ^ 31 - 1 := rfl
  simp only [truncMask, BitVec.toNat_setWidth, BitVec.toNat_and]
  rw [show (2147483647 : BitVec 32) = 0x7FFFFFFF#32 from rfl, hm, Nat.and_two_pow_sub_one_eq_mod, Nat.mod_mod]

/-- The offset is the low four bits of the last byte (R136). -/
theorem truncOffset_toNat (d : Buf Config.digestMax) (n : Nat) :
    (truncOffset d n).toNat = (bufByte d (n - 1)).toNat % 16 := by simp [truncOffset]

/-- Inside its domain `FORMAT` writes the digits and zeros above them (R150, R153). -/
theorem codeBytes_defined (v : BitVec 30) (d : BitVec 4) (h : formatDefined v d = true) :
    codeBytes v d = bufOf _ (decFormat v.toNat d.toNat) := by simp [codeBytes, h]

theorem formatDefined_iff (v : BitVec 30) (d : BitVec 4) :
    formatDefined v d = true ↔ d.toNat ≤ 9 ∧ v.toNat < 10 ^ d.toNat := by simp [formatDefined]

/-- What `HOTP` formats is in the domain of the formatter (R143, R150). -/
theorem hotpTrunc_defined (a : HashAlg) (s : State) (hg : digitsOk s.digits = true) :
    formatDefined (hotpTrunc a s).code (s.digits.setWidth 4) = true := by
  have h := (digitsOk_iff _).mp hg
  rw [formatDefined_iff, setWidth_digits_toNat _ hg]
  refine ⟨h.2, ?_⟩
  rw [hotpTrunc, truncReduce_toNat _ _ h.2]
  exact Nat.mod_lt _ (Nat.pow_pos (by omega))

/-- A digit of the code is an ASCII digit (R150). -/
theorem decFormat_getD (v d i : Nat) (h : i < d) :
    ((decFormat v d).getD i 0).toNat = 0x30 + v / 10 ^ (d - 1 - i) % 10 := by
  have : v / 10 ^ (d - 1 - i) % 10 < 10 := Nat.mod_lt _ (by omega)
  simp [decFormat, List.getD, h]
  omega

end Sys2Proof.Machine
end

