-- ==== Sys2Proof/Laws/PerInstr.lean ====
section
/-! SUPPORT. What holds of every command as syntax, one lemma per command: its word is a legal one (R60, R62). -/

namespace Sys2Proof.Laws.EncodedWordLegal

/-- The command is well formed and the fields of its word are legal: `ZERO` is zero and `OP` is its opcode. -/
def Statement (i : Instr) : Prop :=
  i.wellFormed = true ∧ (cmdFields (encode i)).wellFormed = true ∧ (cmdFields (encode i)).op = opcode i

theorem clear : Statement .clear := by unfold Statement; decide
theorem encode : Statement .encode := by unfold Statement; decide
theorem hmac : Statement .hmac := by unfold Statement; decide
theorem trunc : Statement .trunc := by unfold Statement; decide
theorem format : Statement .format := by unfold Statement; decide
theorem hotp : Statement .hotp := by unfold Statement; decide

end Sys2Proof.Laws.EncodedWordLegal
end

