-- ==== Sys2Proof/Laws/Port.lean ====
section
/-! SUPPORT. What the port and a step do: the register map read both ways (R30), the events on the pins (R40), and the cases
of a step (R41, R42, R55, R61). -/

namespace Sys2Proof.Machine

/-- The register at an address is the one whose offset is four times it, and its address leads back to it (R30). -/
theorem regOffset_regAt : ∀ a : PortAddr, regOffset (regAt a) = 4 * a.toNat := by decide +kernel

/-- Only `CMD`'s address is `CMD` (R14). -/
theorem regAt_eq_cmd_iff : ∀ a : PortAddr, regAt a = .cmd ↔ a = Config.cmdAddr := by decide +kernel

/-- The addresses of the digest words (R28, R30). -/
theorem regAt_digestW : ∀ w : Fin 16, regAt (regAddr (.digestW w)) = .digestW w := by decide +kernel

/-- The addresses of the key words (R29, R30). -/
theorem regAt_keyW : ∀ w : Fin 64, regAt (regAddr (.keyW w)) = .keyW w := by decide +kernel

/-- The index of a register that is a buffer word. -/
def regIndexOk : PortReg → Bool
  | .msgW w => w < 2
  | .codeW w => w < 3
  | .digestW w => w < 16
  | .keyW w => w < 64
  | .id | .cmd | .status | .alg | .digits | .klen | .counterLo | .counterHi | .dlen | .offset | .bincode | .codeval
  | .codedig | .codelen | .reserved _ => true

/-- The index of a buffer word at an address is within its buffer (R30, R32). -/
theorem regIndexOk_regAt : ∀ a : PortAddr, regIndexOk (regAt a) = true := by decide +kernel

/-- A write to a register other than `CMD` leaves everything no `WR` can reach (R42). -/
theorem writeReg_results (r : PortReg) (v : Word) (s : State) :
    (writeReg r v s).err = s.err ∧ (writeReg r v s).msg = s.msg ∧ (writeReg r v s).offset = s.offset ∧
      (writeReg r v s).bincode = s.bincode ∧ (writeReg r v s).codeval = s.codeval ∧
      (writeReg r v s).codedig = s.codedig ∧ (writeReg r v s).codelen = s.codelen ∧
      (writeReg r v s).code = s.code ∧ (writeReg r v s).inbox = s.inbox ∧ (writeReg r v s).out = s.out := by
  cases r <;> simp [writeReg]

/-- A write to a register other than `CMD`, with the port's acknowledge before or after it. -/
theorem writeReg_setOut (r : PortReg) (v : Word) (o : PortOut) (s : State) :
    writeReg r v (setOut o s) = setOut o (writeReg r v s) := by cases r <;> rfl

@[simp] theorem portEvent_pinsWrite (a : PortAddr) (v : Word) : portEvent (pinsWrite a v) = .write a v := rfl

@[simp] theorem portEvent_pinsRead (a : PortAddr) : portEvent (pinsRead a) = .read a := rfl

/-- A step with no input holds the state (R205). -/
theorem step_idle (s : State) (h : s.inbox = []) : step s = .next (setOut .noAck s) := by
  simp [step, nextAction, h, eventAction]

/-- A step under reset (R55, R210). -/
theorem step_reset (s : State) (p : PortIn) (rest : List PortIn) (h : s.inbox = p :: rest)
    (he : portEvent p = .reset) : step s = .next (setOut .noAck (resetBlock (setInbox rest s))) := by
  simp [step, nextAction, h, he, eventAction]

/-- A step with the port idle (R205). -/
theorem step_noReq (s : State) (p : PortIn) (rest : List PortIn) (h : s.inbox = p :: rest)
    (he : portEvent p = .idle) : step s = .next (setOut .noAck (setInbox rest s)) := by
  simp [step, nextAction, h, he, eventAction]

/-- A read (R41). -/
theorem step_read (s : State) (p : PortIn) (rest : List PortIn) (a : PortAddr) (h : s.inbox = p :: rest)
    (he : portEvent p = .read a) :
    step s = .next (setOut (.ackRead (readReg (regAt a) s)) (setInbox rest s)) := by
  have : readReg (regAt a) (setInbox rest s) = readReg (regAt a) s := by cases regAt a <;> rfl
  simp [step, nextAction, h, he, eventAction, this]

/-- A write other than to `CMD` (R42). -/
theorem step_write (s : State) (p : PortIn) (rest : List PortIn) (a : PortAddr) (v : Word)
    (h : s.inbox = p :: rest) (he : portEvent p = .write a v) (hc : regAt a ≠ .cmd) :
    step s = .next (writeReg (regAt a) v (setOut .ackWrite (setInbox rest s))) := by
  simp only [step, nextAction, h, he, eventAction]

/-- A write to `CMD` (R61). -/
theorem step_cmd (s : State) (p : PortIn) (rest : List PortIn) (a : PortAddr) (v : Word)
    (h : s.inbox = p :: rest) (he : portEvent p = .write a v) (hc : regAt a = .cmd) :
    step s = match decode v with
      | .ok i => exec i (setOut .ackWrite (setInbox rest s))
      | .error _ => .next (setErr .illegalCommand (setOut .ackWrite (setInbox rest s))) := by
  simp only [step, nextAction, h, he, eventAction, hc, cmdAction]
  cases decode v <;> rfl

end Sys2Proof.Machine
end

