-- ==== Sys2Proof/Laws/Script.lean ====
section
/-! SUPPORT. What the lines of a script do, one lemma per kind of line, and scripts put together (R68). -/

namespace Sys2Proof.Machine

/-- The address of every register of the map leads back to it (R30). -/
theorem regAt_regAddr_scalar :
    regAt (regAddr .cmd) = .cmd ∧ regAt (regAddr .status) = .status ∧ regAt (regAddr .alg) = .alg ∧
      regAt (regAddr .digits) = .digits ∧ regAt (regAddr .klen) = .klen ∧
      regAt (regAddr .counterLo) = .counterLo ∧ regAt (regAddr .counterHi) = .counterHi ∧
      regAt (regAddr .dlen) = .dlen ∧ regAt (regAddr .codelen) = .codelen ∧
      regAt (regAddr (.codeW 0)) = .codeW 0 ∧ regAt (regAddr (.codeW 1)) = .codeW 1 ∧
      regAt (regAddr (.codeW 2)) = .codeW 2 := by decide

/-- A `WR` line other than a command. -/
theorem runLine_wr (a : PortAddr) (v : Word) (s : State) (hc : regAt a ≠ .cmd) :
    runLine (.wr a v) s = (writeReg (regAt a) v (setOut .ackWrite s), []) := by
  have hs := step_write (present (pinsWrite a v) s) (pinsWrite a v) s.inbox a v rfl rfl hc
  have hp : setInbox s.inbox (present (pinsWrite a v) s) = s := rfl
  rw [hp] at hs
  have ho := (writeReg_results (regAt a) v (setOut .ackWrite s)).2.2.2.2.2.2.2.2.2
  simp only [runLine, linePins, hs, ho]
  rfl

/-- An `RD` line. -/
theorem runLine_rd (a : PortAddr) (s : State) :
    runLine (.rd a) s = (setOut (.ackRead (readReg (regAt a) s)) s, [readReg (regAt a) s]) := by
  have hs := step_read (present (pinsRead a) s) (pinsRead a) s.inbox a rfl rfl
  have hr : readReg (regAt a) (present (pinsRead a) s) = readReg (regAt a) s := by cases regAt a <;> rfl
  have hp : setInbox s.inbox (present (pinsRead a) s) = s := rfl
  rw [hr, hp] at hs
  simp only [runLine, linePins, hs]
  rfl

/-- A command line whose command ends in a state that leaves the port's acknowledge. -/
theorem runLine_cmd (i : Instr) (s t : State) (hd : decode (encode i) = .ok i)
    (he : exec i (setOut .ackWrite s) = .next t) (ho : t.out = .ackWrite) : runLine (cmdLine i) s = (t, []) := by
  have hs := step_cmd (present (linePins (cmdLine i)) s) (linePins (cmdLine i)) s.inbox (regAddr .cmd) (encode i)
    rfl rfl regAt_regAddr_scalar.1
  have hp : setInbox s.inbox (present (linePins (cmdLine i)) s) = s := rfl
  rw [hp, hd] at hs
  simp only [runLine, hs, he, ho]
  rfl

theorem runScript_append (ls ms : List Line) (s : State) :
    runScript (ls ++ ms) s =
      ((runScript ms (runScript ls s).1).1, (runScript ls s).2 ++ (runScript ms (runScript ls s).1).2) := by
  induction ls generalizing s with
  | nil => rfl
  | cons l ls ih => simp only [List.cons_append, runScript, ih, List.append_assoc]

end Sys2Proof.Machine
end

