-- ==== Sys2Proof/Tests/Slice0.lean ====
section
/-! SUPPORT. The model's own tests: each expected value is the spec's (95_test_vectors.md or a rule's worked example, named in
its comment), and a witness for the hypotheses of each statement. -/

namespace Sys2Proof.Tests

open Sys2Proof.Machine

/-- The state an outcome goes on in. -/
def after (o : Host.Outcome State Fault Refusal) : Option State :=
  match o with
  | .next t => some t
  | .fault _ | .refused _ => none

/-- The key of the known answers (95_test_vectors.md section 1.1). -/
def knownKey : List Byte := [0x48, 0x65, 0x6C, 0x6C, 0x6F, 0x21, 0xDE, 0xAD, 0xBE, 0xEF]

/-- The SHA-1 digest of the known answer (R127, R142). -/
def knownDigest : List Byte :=
  [0x85, 0x3f, 0x79, 0xb6, 0x65, 0x0a, 0x9e, 0x3c, 0x5a, 0x81, 0xf1, 0x79, 0xa2, 0x09, 0x25, 0x3b, 0xcb, 0xbe, 0x74, 0x02]

/-- A block loaded with the known key and counter 1, its message encoded, for a tag and a width. -/
def loaded (tag digits : Word) : State :=
  { State.reset with
    alg := tag, digits := digits, klen := 10, counter := 1
    key := bufOf _ knownKey, msg := bufOf _ [0, 0, 0, 0, 0, 0, 0, 1] }

/-- A block holding a digest and its length, for a width. -/
def digested (d : List Byte) (n digits : Word) : State :=
  { State.reset with digest := bufOf _ d, dlen := n, digits := digits }

/-- A block whose next input is a transaction, with nothing behind it. -/
def facing (p : PortIn) (s : State) : State := setInbox [p] s

/-- A reset presented over a `CMD` write. -/
def resetOverHotp : PortIn := { rst := true, req := true, we := true, addr := 1, wdata := 6 }

/-- Pins with neither reset nor request. -/
def quiet : PortIn := { rst := false, req := false, we := true, addr := 1, wdata := 6 }

/-! ## Well-formed command words: an ill-formed pair of fields for each check (R60, R62) -/

theorem test_wellFormed_accepts : CmdFields.wellFormed { zero := 0, op := 6 } = true := by decide

theorem test_wellFormed_zero_field :
    CmdFields.zeroOk { zero := 1, op := 6 } = false ∧ CmdFields.wellFormed { zero := 1, op := 6 } = false := by decide

theorem test_wellFormed_opcode :
    CmdFields.opOk { zero := 0, op := 0 } = false ∧ CmdFields.wellFormed { zero := 0, op := 0 } = false ∧
      CmdFields.opOk { zero := 0, op := 7 } = false ∧ CmdFields.wellFormed { zero := 0, op := 7 } = false := by decide

/-! ## Decoding: each word written out from R60 (`ZERO`, then `OP`) and the table of R62 -/

theorem test_decode_clear : decode 0b00000000000000000000000000000001 = .ok .clear := by decide
theorem test_decode_encode : decode 0b00000000000000000000000000000010 = .ok .encode := by decide
theorem test_decode_hmac : decode 0b00000000000000000000000000000011 = .ok .hmac := by decide
theorem test_decode_trunc : decode 0b00000000000000000000000000000100 = .ok .trunc := by decide
theorem test_decode_format : decode 0b00000000000000000000000000000101 = .ok .format := by decide
theorem test_decode_hotp : decode 0b00000000000000000000000000000110 = .ok .hotp := by decide

/-- R64: a stray zero write is illegal, and so are the reserved opcodes next to the six and a set bit of `ZERO`. -/
theorem test_decode_illegal :
    decode 0b00000000000000000000000000000000 = .error (.reservedOpcode 0) ∧
      decode 0b00000000000000000000000000000111 = .error (.reservedOpcode 7) ∧
      decode 0b00000000000000000000000000010001 = .error .zeroFieldSet ∧
      decode 0b10000000000000000000000000000110 = .error .zeroFieldSet := by decide

theorem test_decodeTableWord : decodeTableWord 32 3 = some .hmac ∧ decodeTableWord 32 9 = none := by decide

/-- The next step runs the placed word: `ENCODE` of the known counter (R82). -/
theorem test_withFetchWord :
    (after (step ((loaded 1 6).withFetchWord 32 2))).map (fun t => (bufWord t.msg 0, bufWord t.msg 1, t.out)) =
      some (0x00000000, 0x01000000, .ackWrite) := by decide

/-! ## The commands -/

/-- R166, worked example: what `CLEAR` makes the registers read. -/
theorem test_clear :
    (after (exec .clear (loaded 1 6))).map (fun t =>
      (readReg .codelen t, readReg (.codeW 0) t, readReg .alg t, readReg .digits t, readReg .counterLo t)) =
      some (0, 0, 0, 0, 0) := by decide

/-- R166: the key, which no read shows, is cleared too. -/
theorem test_clear_key :
    (after (exec .clear (loaded 1 6))).map (fun t => (t.key.toList.take 10, t.klen)) =
      some (List.replicate 10 0, 0) := by decide +kernel

/-- R82, worked example. -/
theorem test_encode :
    (after (exec .encode { State.reset with counter := 0x0123456789ABCDEF })).map (fun t =>
      (readReg (.msgW 0) t, readReg (.msgW 1) t)) = some (0x67452301, 0xEFCDAB89) := by decide

/-- R82, corner case: counter `2^32`. -/
theorem test_encode_high :
    (after (exec .encode { State.reset with counter := 0x100000000 })).map (fun t => t.msg.toList) =
      some [0, 0, 0, 1, 0, 0, 0, 0] := by decide

/-- R127, worked example. -/
theorem test_hmac :
    (after (exec .hmac (loaded 1 6))).map (fun t => (t.digest.toList.take 20, t.dlen, readReg .status t)) =
      some (knownDigest, 20, 0) := by decide +kernel

/-- R193, example: `ALG = 0` and `KLEN = 300` reports 5. -/
theorem test_hmac_priority :
    (after (exec .hmac { loaded 0 6 with klen := 300 })).map (fun t => (readReg .status t, t.dlen)) = some (5, 0) := by
  decide

/-- R142, worked example. -/
theorem test_trunc :
    (after (exec .trunc (digested knownDigest 20 6))).map (fun t =>
      (readReg .offset t, readReg .bincode t, readReg .codeval t, readReg .codedig t, readReg .status t)) =
      some (2, 0x79B6650A, 996554, 6, 0) := by decide

/-- R193, example: `DLEN = 19` and `DIGITS = 0` reports 2, an internal error (95_test_vectors.md: `STATUS = 0x102`). -/
theorem test_trunc_priority :
    (after (exec .trunc (digested knownDigest 19 0))).map (fun t => (readReg .status t, readReg .bincode t)) =
      some (0x102, 0) := by decide

/-- R153, worked example. -/
theorem test_format :
    (after (exec .format { State.reset with codeval := 42, codedig := 6 })).map (fun t =>
      (readReg (.codeW 0) t, readReg (.codeW 1) t, readReg (.codeW 2) t, readReg .codelen t)) =
      some (0x30303030, 0x00003234, 0, 6) := by decide

/-- R153, corner case: no truncation result gives the empty code and no error. -/
theorem test_format_empty :
    (after (exec .format { State.reset with err := .invalidDigits })).map (fun t =>
      (readReg (.codeW 0) t, readReg .codelen t, readReg .status t)) = some (0, 0, 0) := by decide

/-- R160, worked example: `996554`, and the secret is gone. -/
theorem test_hotp :
    (after (exec .hotp (loaded 1 6))).map (fun t =>
      ([readReg .status t, readReg .codelen t, readReg (.codeW 0) t, readReg (.codeW 1) t, t.klen], t.key.toList.take 10)) =
      some ([0, 6, 0x35363939, 0x00003435, 0], List.replicate 10 0) := by decide +kernel

/-- 95_test_vectors.md section 1.1: SHA-512 and eight digits give `31439887`. -/
theorem test_hotp_sha512 :
    (after (exec .hotp (loaded 3 8))).map (fun t => (readReg .status t, readReg (.codeW 0) t, readReg (.codeW 1) t)) =
      some (0, 0x33343133, 0x37383839) := by decide +kernel

/-- 95_test_vectors.md section 3: SHA-256 of the empty message. -/
theorem test_sha256_empty : beNat (sha256 []) =
    0xe3b0c44298fc1c149afbf4c8996fb92427ae41e4649b934ca495991b7852b855 := by decide +kernel

/-! ## The port -/

/-- R13, R29: `ID` reads its constant; a key word reads zero whatever the buffer holds. -/
theorem test_read_id_and_key :
    (after (step (facing (pinsRead 0) (loaded 1 6)))).map State.out = some (.ackRead 0x484F5450) ∧
      (after (step (facing (pinsRead 0x40) (loaded 1 6)))).map State.out = some (.ackRead 0) := by decide +kernel

/-- R46, example: the second word of the known key, written to `0x104`. -/
theorem test_write_key_word :
    (after (step (facing (pinsWrite 0x41 0xADDE216F) State.reset))).map (fun t => (t.key.toList.drop 4).take 4) =
      some [0x6F, 0x21, 0xDE, 0xAD] := by decide +kernel

/-- R19, R42: one half of the counter (95_test_vectors.md section 2, corner). -/
theorem test_write_counter_lo :
    (after (step (facing (pinsWrite 6 5) { State.reset with counter := 0x0123456789ABCDEF }))).map State.counter =
      some 0x0123456700000005 := by decide

/-- R15: a write to `STATUS` is ignored. -/
theorem test_write_status :
    (after (step (facing (pinsWrite 2 0) { State.reset with err := .keyTooLong }))).map State.err =
      some .keyTooLong := by decide

/-- R55: reset over a `CMD` write leaves the reset state and acknowledges nothing. -/
theorem test_reset_over_command :
    after (step (facing resetOverHotp (loaded 1 6))) = some State.reset := by decide +kernel

/-! ## The wrapper -/

/-- R177, example; and the two malformed secrets of 95_test_vectors.md section 1.2. -/
theorem test_base32 :
    base32Decode "JBSWY3DPEHPK3PXP".toList = some knownKey ∧ base32Decode "JBSWY3DPEHPK3PX1".toList = none ∧
      base32Decode "JBSWY3DPE".toList = none := by decide +kernel

/-- R179, examples. -/
theorem test_totpCounter :
    totpCounter 1111111109 30 = .ok 37037036 ∧ totpCounter 29 30 = .ok 0 ∧ totpCounter 30 30 = .ok 1 ∧
      totpCounter 5 0 = .error .invalidStep := by decide

/-- R178: the entry point on the known secret and counter gives `996554`. -/
theorem test_generateHotp :
    (generateHotp "JBSWY3DPEHPK3PXP".toList 1 6 .sha1 State.reset).1 = .ok [0x39, 0x39, 0x36, 0x35, 0x35, 0x34] := by
  decide +kernel

/-- R182: a tag of the host binding that is no member of the enumeration gives UnsupportedAlgorithm. -/
theorem test_generateHotpBound :
    (generateHotpBound "JBSWY3DPEHPK3PXP".toList 1 6 none State.reset).1 = .error .unsupportedAlgorithm ∧
      (generateTotpBound "JBSWY3DPEHPK3PXP".toList 30 6 none 59 State.reset).1 = .error .unsupportedAlgorithm := by
  decide +kernel

/-- R178: a secret of 412 characters, 257 bytes, is KeyTooLong. -/
theorem test_keyTooLong :
    (generateHotp (List.replicate 412 'A') 1 6 .sha1 State.reset).1 = .error .keyTooLong := by decide +kernel

/-! ## Witnesses: a state and operands that meet the hypotheses of each statement, clause by clause, at the ends of a range -/

/-- The known block with another counter and another byte above `KLEN`. -/
def loadedElse : State :=
  { loaded 1 6 with counter := 2, key := bufSetWord (loaded 1 6).key 3 0xFFFFFFFF }

/-- A digest buffer whose bytes from 20 on are not those of `knownDigest`'s zeros. -/
def digestedElse : State := { digested knownDigest 20 6 with digest := bufSetWord (digested knownDigest 20 6).digest 5 7 }

/-- DecodeEncodeAgree. -/
theorem witness_DecodeEncodeAgree :
    decode 0x00000006 = .ok .hotp ∧ decode 0x00000010 = .error .zeroFieldSet ∧
      decode 0x0000000F = .error (.reservedOpcode 15) ∧ decode 0 = .error (.reservedOpcode 0) := by decide

/-- CmdWriteRunsDecodedCommand: a word that decodes and one that does not. -/
theorem witness_CmdWriteRunsDecodedCommand :
    (facing (pinsWrite Config.cmdAddr 6) (loaded 1 6)).inbox = [pinsWrite Config.cmdAddr 6] ∧
      decode 6 = .ok .hotp ∧ decode 7 = .error (.reservedOpcode 7) := by decide

/-- IllegalWordOnlySetsErr, and the last clause of CommandErrorsAndPriority: the words next to the six. -/
theorem witness_IllegalWordOnlySetsErr :
    (facing (pinsWrite Config.cmdAddr 0) State.reset).inbox = [pinsWrite Config.cmdAddr 0] ∧
      (facing (pinsWrite Config.cmdAddr 7) State.reset).inbox = [pinsWrite Config.cmdAddr 7] ∧
      (0 : Word).toNat < 1 ∧ 6 < (7 : Word).toNat ∧
      ∃ t, step (facing (pinsWrite Config.cmdAddr 7) State.reset) = .next t :=
  ⟨rfl, rfl, by decide, by decide, _, rfl⟩

/-- CommandsWriteOnlyTheirRegisters, OutOfRangeNeverRaised (third clause): every command has a next state. -/
theorem witness_CommandsWriteOnlyTheirRegisters :
    (∃ t, exec .clear (loaded 1 6) = .next t) ∧ (∃ t, exec .encode (loaded 1 6) = .next t) ∧
      (∃ t, exec .hmac (loaded 1 6) = .next t) ∧ (∃ t, exec .trunc (loaded 1 6) = .next t) ∧
      (∃ t, exec .format (loaded 1 6) = .next t) ∧ (∃ t, exec .hotp (loaded 1 6) = .next t) :=
  ⟨⟨_, rfl⟩, ⟨_, rfl⟩, ⟨_, rfl⟩, ⟨_, rfl⟩, ⟨_, rfl⟩, ⟨_, rfl⟩⟩

/-- The clauses on `ALG` and `KLEN` of CommandErrorsAndPriority, HmacCommand and HotpCommand: the tags on both sides, the key
lengths on both sides, each with the clauses before it ruled out. -/
theorem witness_hmac_clauses :
    UnsupportedTag (loaded 0 6) ∧ UnsupportedTag (loaded 4 6) ∧
      (¬UnsupportedTag (loaded 1 6) ∧ ¬UnsupportedTag (loaded 3 6)) ∧
      (¬UnsupportedTag { loaded 2 6 with klen := 257 } ∧ 256 < ({ loaded 2 6 with klen := 257 } : State).klen.toNat) ∧
      (¬UnsupportedTag { loaded 2 6 with klen := 256 } ∧ ({ loaded 2 6 with klen := 256 } : State).klen.toNat ≤ 256) ∧
      (¬UnsupportedTag { loaded 2 6 with klen := 0 } ∧ ({ loaded 2 6 with klen := 0 } : State).klen.toNat ≤ 256) := by
  unfold UnsupportedTag; decide

/-- The clauses on `DLEN` and `DIGITS` of CommandErrorsAndPriority and TruncCommand. -/
theorem witness_trunc_clauses :
    (BadDigestLength (digested knownDigest 19 6) ∧ BadDigestLength (digested knownDigest 21 6) ∧
        BadDigestLength (digested knownDigest 31 6) ∧ BadDigestLength (digested knownDigest 65 6)) ∧
      (¬BadDigestLength (digested knownDigest 20 0) ∧ BadDigits (digested knownDigest 20 0)) ∧
      (¬BadDigestLength (digested knownDigest 64 10) ∧ BadDigits (digested knownDigest 64 10)) ∧
      (¬BadDigestLength (digested knownDigest 20 1) ∧ ¬BadDigits (digested knownDigest 20 1)) ∧
      (¬BadDigestLength (digested knownDigest 32 9) ∧ ¬BadDigits (digested knownDigest 32 9)) := by
  unfold BadDigestLength BadDigits; decide

/-- The last two clauses of HotpCommand and of CommandErrorsAndPriority for `HOTP`. -/
theorem witness_HotpCommand :
    (¬UnsupportedTag (loaded 3 0) ∧ (loaded 3 0).klen.toNat ≤ 256 ∧ BadDigits (loaded 3 0)) ∧
      (¬UnsupportedTag (loaded 3 10) ∧ (loaded 3 10).klen.toNat ≤ 256 ∧ BadDigits (loaded 3 10)) ∧
      (¬UnsupportedTag (loaded 3 9) ∧ (loaded 3 9).klen.toNat ≤ 256 ∧ ¬BadDigits (loaded 3 9)) := by
  unfold UnsupportedTag BadDigits; decide

/-- EncodeCounterBijection: two counters with one encoding, and a message of eight bytes. -/
theorem witness_EncodeCounterBijection :
    encodeCounter 5 = encodeCounter (4 + 1) ∧ [0, 1, 2, 3, 4, 5, 6, (7 : Byte)].length = 8 := by decide

/-- EncodeCommand: the counter of the last clause. -/
theorem witness_EncodeCommand :
    ({ State.reset with counter := 0x0123456789ABCDEF } : State).counter = 0x0123456789ABCDEF := rfl

/-- PaddingFillsWholeBlocks, the length field: it holds the longest message of R90 and of R110, and not one byte more. -/
theorem witness_lengthField :
    8 * (2 ^ 61 - 1) < 256 ^ 8 ∧ ¬8 * 2 ^ 61 < 256 ^ 8 ∧ 8 * (2 ^ 125 - 1) < 256 ^ 16 ∧ ¬8 * 2 ^ 125 < 256 ^ 16 := by
  decide

/-- PaddingFillsWholeBlocks: both pairs, at the lengths where a block is just full and just not (R91, R111). -/
theorem witness_PaddingFillsWholeBlocks :
    (msgBlocks 64 8 (List.replicate 55 1)).length = 1 ∧ (msgBlocks 64 8 (List.replicate 56 1)).length = 2 ∧
      (msgBlocks 128 16 (List.replicate 111 1)).length = 1 ∧
      (msgBlocks 128 16 (List.replicate 112 1)).length = 2 := by decide +kernel

/-- Sha1ScheduleRecurrence and Sha2ScheduleRecurrence: blocks, and indices at the ends of both ranges. -/
theorem witness_schedules :
    (List.replicate 64 (1 : Byte)).length = 64 ∧ (List.replicate 128 (1 : Byte)).length = 128 ∧ (15 < 16 ∧ 16 ≤ 16 ∧ 16 < 80 ∧ 79 < 80) ∧
      (16 < 16 + 48 ∧ 63 < 16 + 48) ∧ 79 < 16 + 64 := by decide

/-- HashBlockCounts: a message for each clause, the key lengths at both ends. -/
theorem witness_HashBlockCounts :
    (List.replicate 72 (1 : Byte)).length = 64 + 8 ∧ (List.replicate 84 (1 : Byte)).length = 64 + 20 ∧
      (List.replicate 96 (1 : Byte)).length = 64 + 32 ∧ (List.replicate 136 (1 : Byte)).length = 128 + 8 ∧
      (List.replicate 192 (1 : Byte)).length = 128 + 64 ∧ 65 ≤ (List.replicate 65 (1 : Byte)).length ∧
      129 ≤ (List.replicate 129 (1 : Byte)).length ∧ (List.replicate 256 (1 : Byte)).length ≤ 256 := by decide +kernel

/-- KeyNormalisation: keys of a block, one byte more, and a key with room for zeros. -/
theorem witness_KeyNormalisation :
    blockSize .sha1 < (List.replicate 65 (1 : Byte)).length ∧ (List.replicate 64 (1 : Byte)).length ≤ blockSize .sha1 ∧
      blockSize .sha512 < (List.replicate 129 (1 : Byte)).length ∧
      (List.replicate 128 (1 : Byte)).length ≤ blockSize .sha512 ∧ knownKey.length + 54 ≤ blockSize .sha256 := by
  decide +kernel

/-- HmacCommand (last clause), HmacCompletes and HotpCodeValue: each algorithm, the key length at both ends. -/
theorem witness_HmacCompletes :
    (loaded 1 6).alg = algTag .sha1 ∧ (loaded 2 6).alg = algTag .sha256 ∧ (loaded 3 6).alg = algTag .sha512 ∧
      (loaded 1 6).klen.toNat ≤ 256 ∧ ({ loaded 1 6 with klen := 256 } : State).klen.toNat ≤ 256 ∧
      ({ loaded 1 6 with klen := 0 } : State).klen.toNat ≤ 256 := by decide

/-- HmacReadsOnlyItsOperands: two states that differ in the counter and above `KLEN`. -/
theorem witness_HmacReadsOnlyItsOperands :
    loadedElse.alg = (loaded 1 6).alg ∧ loadedElse.klen = (loaded 1 6).klen ∧ loadedElse.msg = (loaded 1 6).msg ∧
      loadedElse.key.toList.take (loaded 1 6).klen.toNat = (loaded 1 6).key.toList.take (loaded 1 6).klen.toNat ∧
      loadedElse.key ≠ (loaded 1 6).key := by decide +kernel

/-- TruncResultBounds: a `TRUNC` that succeeds and one that fails. -/
theorem witness_TruncResultBounds :
    (after (exec .trunc (digested knownDigest 20 9))).map State.err = some .none ∧
      (after (exec .trunc (digested knownDigest 20 10))).map State.err = some .invalidDigits := by decide

/-- OutOfRangeNeverRaised: the three lengths of its second clause, with the largest offset. -/
theorem witness_OutOfRangeNeverRaised :
    (20 : Word) = 20 ∧ (32 : Word) = 32 ∧ (64 : Word) = 64 ∧
      (truncOffset (bufOf _ (List.replicate 20 0xFF)) 20).toNat = 15 := by decide

/-- TruncIgnoresAlgorithm: a next state of `TRUNC`, and the second clause's state under no supported tag. -/
theorem witness_TruncIgnoresAlgorithm :
    (∃ t, exec .trunc (digested knownDigest 32 6) = .next t) ∧ (digested knownDigest 32 1).dlen = 32 ∧
      ¬BadDigits (digested knownDigest 32 1) ∧ ¬BadDigits (digested knownDigest 32 9) ∧
      UnsupportedTag (digested knownDigest 32 1) :=
  ⟨⟨_, rfl⟩, rfl, by unfold BadDigits; decide, by unfold BadDigits; decide, by unfold UnsupportedTag; decide⟩

/-- TruncReadsOnlyItsOperands: two digests that differ from byte 20 on. -/
theorem witness_TruncReadsOnlyItsOperands :
    digestedElse.dlen = (digested knownDigest 20 6).dlen ∧ digestedElse.digits = (digested knownDigest 20 6).digits ∧
      (∀ i < 20, bufByte digestedElse.digest i = bufByte (digested knownDigest 20 6).digest i) ∧
      bufByte digestedElse.digest 20 ≠ bufByte (digested knownDigest 20 6).digest 20 := by decide

/-- DecFormatReadsBack: the empty width, the largest value of nine digits, and two strings that are the same. -/
theorem witness_DecFormatReadsBack :
    0 < 10 ^ 0 ∧ 999999999 < 10 ^ 9 ∧ 42 < 10 ^ 6 ∧ decFormat 42 6 = decFormat (41 + 1) 6 := by decide

/-- FormatCommand: the domain of its last clause at both ends, and an index on each side of the width. -/
theorem witness_FormatCommand :
    (State.reset.codedig.toNat ≤ 9 ∧ State.reset.codeval.toNat < 10 ^ State.reset.codedig.toNat) ∧
      (({ State.reset with codeval := 999999999, codedig := 9 } : State).codedig.toNat ≤ 9 ∧
        ({ State.reset with codeval := 999999999, codedig := 9 } : State).codeval.toNat < 10 ^ 9) ∧
      8 < 9 ∧ ¬9 < 9 ∧ 11 < 12 := by decide

/-- FormatReadsOnlyItsOperands: two states that differ in `DIGITS`. -/
theorem witness_FormatReadsOnlyItsOperands :
    (loaded 1 8).codeval = (loaded 1 6).codeval ∧ (loaded 1 8).codedig = (loaded 1 6).codedig ∧
      (loaded 1 8).digits ≠ (loaded 1 6).digits := by decide

/-- TruncThenFormatGivesCode: the three lengths, and the widths at both ends. -/
theorem witness_TruncThenFormatGivesCode :
    ¬BadDigestLength (digested knownDigest 20 1) ∧ ¬BadDigits (digested knownDigest 20 1) ∧
      ¬BadDigestLength (digested knownDigest 64 9) ∧ ¬BadDigits (digested knownDigest 64 9) := by
  unfold BadDigestLength BadDigits; decide

/-- HotpCodeValue: a tag, a key that fits and a legal width at both ends. -/
theorem witness_HotpCodeValue :
    (loaded 2 1).alg = algTag .sha256 ∧ (loaded 2 1).klen.toNat ≤ 256 ∧ ¬BadDigits (loaded 2 1) ∧
      ¬BadDigits (loaded 2 9) := by unfold BadDigits; decide

/-- HotpReadsOnlyItsOperands: two states that differ above `KLEN` and in the message. -/
theorem witness_HotpReadsOnlyItsOperands :
    ({ loadedElse with counter := 1, msg := bufZero _ } : State).counter = (loaded 1 6).counter ∧
      loadedElse.alg = (loaded 1 6).alg ∧ loadedElse.klen = (loaded 1 6).klen ∧
      loadedElse.digits = (loaded 1 6).digits ∧
      loadedElse.key.toList.take (loaded 1 6).klen.toNat = (loaded 1 6).key.toList.take (loaded 1 6).klen.toNat := by
  decide +kernel

/-- SecondHotpUsesEmptyKey and the last clause of ScrubZeroes: a next state of `HOTP`. -/
theorem witness_SecondHotpUsesEmptyKey : ∃ t, exec .hotp (loaded 1 6) = .next t := ⟨_, rfl⟩

/-- ResetAbandonsTransaction. -/
theorem witness_ResetAbandonsTransaction :
    (facing resetOverHotp (loaded 1 6)).inbox = [resetOverHotp] ∧ resetOverHotp.rst = true := by decide

/-- IdleHoldsState: no input at all, and pins that ask for nothing. -/
theorem witness_IdleHoldsState :
    State.reset.inbox = [] ∧ (facing quiet (loaded 1 6)).inbox = [quiet] ∧ quiet.rst = false ∧ quiet.req = false := by
  decide

/-- The pins of a read, for ReadTransaction, KeyCannotBeRead and OnlyCommandsChangeResults. -/
theorem witness_reads :
    (facing (pinsRead 0x40) (loaded 1 6)).inbox = [pinsRead 0x40] ∧ (pinsRead 0x40).rst = false ∧
      (pinsRead 0x40).req = true ∧ (pinsRead 0x40).we = false ∧
      ∃ t, step (facing (pinsRead 0x40) (loaded 1 6)) = .next t := ⟨rfl, rfl, rfl, rfl, _, rfl⟩

/-- The word addresses at the ends of every range of ReadTransaction, WriteTransaction and ReservedOffsets, and the one
register each leads to. -/
theorem witness_addresses :
    regAt 0x000 = .id ∧ regAt 0x001 = .cmd ∧ regAt 0x002 = .status ∧ regAt 0x003 = .alg ∧ regAt 0x004 = .digits ∧
      regAt 0x005 = .klen ∧ regAt 0x006 = .counterLo ∧ regAt 0x007 = .counterHi ∧ regAt 0x008 = .msgW 0 ∧
      regAt 0x009 = .msgW 1 ∧ regAt 0x00A = .dlen ∧ regAt 0x00B = .offset ∧ regAt 0x00C = .bincode ∧
      regAt 0x00D = .codeval ∧ regAt 0x00E = .codedig ∧ regAt 0x00F = .codelen ∧ regAt 0x010 = .codeW 0 ∧
      regAt 0x012 = .codeW 2 ∧ regAt 0x013 = .reserved 0x04C ∧ regAt 0x01F = .reserved 0x07C ∧
      regAt 0x020 = .digestW 0 ∧ regAt 0x02F = .digestW 15 ∧ regAt 0x030 = .reserved 0x0C0 ∧
      regAt 0x03F = .reserved 0x0FC ∧ regAt 0x040 = .keyW 0 ∧ regAt 0x07F = .keyW 63 ∧
      regAt 0x080 = .reserved 0x200 ∧ regAt 0x3FF = .reserved 0xFFC := by decide

/-- WriteTransaction: the pins of a write, and a command word and an illegal one for its first clause. -/
theorem witness_WriteTransaction :
    (facing (pinsWrite 3 7) State.reset).inbox = [pinsWrite 3 7] ∧ decode 1 = .ok .clear ∧
      decode 8 = .error (.reservedOpcode 8) ∧ 4 * (0x001 : BitVec 10).toNat = 0x004 ∧
      4 * (0x02F : BitVec 10).toNat = 0x080 + 4 * 15 ∧ 4 * (0x07F : BitVec 10).toNat = 0x100 + 4 * 63 := by decide

/-- BufferLanes: the last word of each buffer, and a byte of another word. -/
theorem witness_BufferLanes :
    4 * 1 + 3 < 8 ∧ 4 * 2 + 3 < 12 ∧ 4 * 15 + 3 < 64 ∧ 4 * 63 + 3 < 256 ∧ 3 < 4 ∧ 7 / 4 ≠ 2 := by decide

/-- WrittenWordReadsBack: a write and a read of it, at the ends of its ranges. -/
theorem witness_WrittenWordReadsBack :
    (setInbox [pinsWrite 3 7, pinsRead 3] State.reset).inbox = [pinsWrite 3 7, pinsRead 3] ∧
      (0x00C ≤ 4 * (0x003 : BitVec 10).toNat ∧ 4 * (0x007 : BitVec 10).toNat < 0x020) ∧
      4 * (0x00A : BitVec 10).toNat = 0x028 ∧
      (0x080 ≤ 4 * (0x020 : BitVec 10).toNat ∧ 4 * (0x02F : BitVec 10).toNat < 0x0C0) := by decide

/-- ReservedOffsets: the ends of the three reserved ranges, read and written. -/
theorem witness_ReservedOffsets :
    (0x04C ≤ 4 * (0x013 : BitVec 10).toNat ∧ 4 * (0x01F : BitVec 10).toNat < 0x080) ∧
      (0x0C0 ≤ 4 * (0x030 : BitVec 10).toNat ∧ 4 * (0x03F : BitVec 10).toNat < 0x100) ∧
      0x200 ≤ 4 * (0x080 : BitVec 10).toNat ∧ 0x200 ≤ 4 * (0x3FF : BitVec 10).toNat ∧
      (facing (pinsRead 0x3FF) State.reset).inbox = [pinsRead 0x3FF] ∧
      (facing (pinsWrite 0x013 5) State.reset).inbox = [pinsWrite 0x013 5] := by decide

/-- WriteTwiceIsOnce, and the write of OnlyCommandsChangeResults. -/
theorem witness_WriteTwiceIsOnce :
    (0x040 : BitVec 10) ≠ Config.cmdAddr ∧
      (setInbox [pinsWrite 0x040 5, pinsWrite 0x040 5] State.reset).inbox = [pinsWrite 0x040 5, pinsWrite 0x040 5] ∧
      (pinsWrite 0x040 5).rst = false ∧ (pinsWrite 0x040 5).addr ≠ Config.cmdAddr := by decide

/-- A block after a truncation and its `FORMAT`: the code `000042` (R153). -/
def formatted : State :=
  { State.reset with
    bincode := 1000042, codeval := 42, codedig := 6, codelen := 6
    code := bufOf _ [0x30, 0x30, 0x30, 0x30, 0x34, 0x32] }

/-- StepKeepsInvariant: a state with a result and a code meets the invariant, and steps. -/
theorem witness_StepKeepsInvariant : Inv formatted ∧ ∃ t, step formatted = .next t :=
  ⟨⟨.inl rfl, by decide, by decide, by decide, by decide, by decide, fun _ => by decide, by decide,
    (show ∀ i < 6, _ by decide), fun i h h' => (show ∀ j < 12, 6 ≤ j → bufByte formatted.code j = 0 by decide) i h' h⟩, _, rfl⟩

/-- ReachableStatesMeetInvariant: a state two moves from reset. -/
theorem witness_ReachableStatesMeetInvariant :
    Reachable (accepted [] { State.reset with alg := 7 }) :=
  .step (.host [pinsWrite 3 7] .reset) rfl

/-- LdkeyLoadsKey: the longest key, and the known one with the two lanes it does not fill and the byte after them. -/
theorem witness_LdkeyLoadsKey :
    (List.replicate 256 (1 : Byte)).length ≤ 256 ∧ knownKey.length ≤ 256 ∧
      (knownKey.length ≤ 11 ∧ 11 < 4 * ((knownKey.length + 3) / 4)) ∧ 4 * ((knownKey.length + 3) / 4) ≤ 12 := by
  decide +kernel

/-- TotpCounterDivides: a zero step, the least other one, and a secret that decodes. -/
theorem witness_TotpCounterDivides :
    (0 : DWord) = 0 ∧ (1 : DWord) ≠ 0 ∧ base32Decode "JBSWY3DPEHPK3PXP".toList ≠ none := by decide +kernel

/-- FailedChecksTouchNothing: a malformed secret and one that decodes, a zero step and another. -/
theorem witness_FailedChecksTouchNothing :
    base32Decode "JBSWY3DPE".toList = none ∧ base32Decode "JBSWY3DPEHPK3PXP".toList ≠ none ∧ (30 : DWord) ≠ 0 ∧
      (0 : DWord) = 0 := by decide +kernel

/-- GenerateHotpReturnsCode: a secret, and widths at both ends. -/
theorem witness_GenerateHotpReturnsCode :
    base32Decode "JBSWY3DPEHPK3PXP".toList = some knownKey ∧ knownKey.length ≤ 256 ∧ 1 ≤ (1 : Word).toNat ∧
      (9 : Word).toNat ≤ 9 := by decide +kernel

/-- NotationPrimitives: the ends of the range of a rotation, and a number that just fits its bytes. -/
theorem witness_NotationPrimitives : (0 < 1 ∧ 1 < 32) ∧ (0 < 63 ∧ 63 < 64) ∧ 255 < 256 ^ 1 ∧ 0 < 256 ^ 0 := by decide

/-- Sha1Compression: an index on each side of each range of `t`, and a message of two blocks. -/
theorem witness_Sha1Compression :
    0 < 80 ∧ 19 < 20 ∧ 20 < 40 ∧ 40 < 60 ∧ 79 < 80 ∧ 1 < (msgBlocks 64 8 (List.replicate 56 1)).length := by
  decide +kernel

/-- Sha2Parameters: the last index of each table. -/
theorem witness_Sha2Parameters : 63 < 64 ∧ 79 < 80 ∧ 7 < 8 ∧ firstPrimes.length = 80 ∧
    firstPrimes.getD 63 0 = 311 ∧ firstPrimes.getD 79 0 = 409 := by decide +kernel

/-- Sha2Compression: both functions have round constants enough. -/
theorem witness_Sha2Compression :
    16 ≤ sha256Params.ks.length ∧ 16 ≤ sha512Params.ks.length ∧ 63 < sha256Params.ks.length := by decide

/-- ForeignTagIsUnsupported: a secret that decodes to a key that fits, and a step that is not zero. -/
theorem witness_ForeignTagIsUnsupported :
    base32Decode "JBSWY3DPEHPK3PXP".toList = some knownKey ∧ knownKey.length ≤ 256 ∧ (30 : DWord) ≠ 0 := by
  decide +kernel

end Sys2Proof.Tests
end

section
/-! The notation of R7: the value of a rotation and of a 32-bit big-endian word, as arithmetic on naturals. -/

namespace Sys2Proof.Machine

theorem rotl_toNat {w : Nat} (x : BitVec w) (n : Nat) :
    (rotl x n).toNat = (x.toNat * 2 ^ n % 2 ^ w ||| x.toNat / 2 ^ (w - n)) := by
  simp only [rotl, BitVec.toNat_or, BitVec.toNat_shiftLeft, BitVec.toNat_ushiftRight, Nat.shiftLeft_eq,
    Nat.shiftRight_eq_div_pow]

theorem rotr_toNat {w : Nat} (x : BitVec w) (n : Nat) :
    (rotr x n).toNat = (x.toNat / 2 ^ n ||| x.toNat * 2 ^ (w - n) % 2 ^ w) := by
  simp only [rotr, BitVec.toNat_or, BitVec.toNat_shiftLeft, BitVec.toNat_ushiftRight, Nat.shiftLeft_eq,
    Nat.shiftRight_eq_div_pow]

theorem beNat_four (a b c d : Byte) :
    beNat [a, b, c, d] = a.toNat * 2 ^ 24 + b.toNat * 2 ^ 16 + c.toNat * 2 ^ 8 + d.toNat := by
  simp only [beNat, List.foldl_cons, List.foldl_nil]
  omega

/-- Settles O56: a rotation is two shifts read as arithmetic, and `toBE` undoes `BE` by induction on the last byte. -/
theorem notationPrimitives : Obligations.NotationPrimitives := by
  refine ⟨fun _ n x _ _ => ⟨rotl_toNat x n, rotr_toNat x n⟩, beNat_four, fun l b => ?_,
    fun n v hv => ⟨toBE_length n v, beNat_toBE n v hv⟩, toBE_beNat⟩
  calc beNat (l ++ [b]) = beNat l * 256 + b.toNat := beNat_append_singleton l b
    _ = 2 ^ 8 * beNat l + b.toNat := by omega

end Sys2Proof.Machine
end

section
/-! The fields of `STATUS` (R15, R66), the values after reset (R35), and no command reads `STATUS` (R31). -/

namespace Sys2Proof.Machine

/-- `ERR` in bits 7:0, `INTERNAL` in bit 8, nothing above (R15). -/
theorem statusWord_fields (e : ErrCode) :
    (statusWord e).extractLsb' 0 8 = errCode e ∧
      ((statusWord e).extractLsb' 8 1 = 1 ↔ (errCode e = 2 ∨ errCode e = 3)) ∧
      (statusWord e).extractLsb' 9 23 = 0 := by
  cases e <;> decide

/-- Settles O9: the word has the fields for each of the nine error values, whose codes are as listed. -/
theorem statusWordFields : Obligations.StatusWordFields :=
  ⟨fun s => statusWord_fields s.err, rfl, rfl, rfl, rfl, rfl, rfl, rfl, rfl, rfl⟩

/-- A stepwise command overwrites `STATUS.ERR` before its body runs (R61), so it forgets what stood there. -/
theorem runBody_setErr (body : State → Stage) (e : ErrCode) (s : State) :
    runBody body (setErr e s) = runBody body s := rfl

/-- Settles O7: the four stepwise commands and `HOTP` overwrite `ERR` before anything else, and `CLEAR` resets it. -/
theorem noCommandReadsStatus : Obligations.NoCommandReadsStatus := by
  intro i s e
  show exec i (setErr e s) = exec i s
  cases i with
  | clear => rfl
  | encode => exact congrArg Host.Outcome.next (runBody_setErr encodeBody e s)
  | hmac => exact congrArg Host.Outcome.next (runBody_setErr hmacBody e s)
  | trunc => exact congrArg Host.Outcome.next (runBody_setErr truncBody e s)
  | format => exact congrArg Host.Outcome.next (runBody_setErr formatBody e s)
  | hotp => rfl

/-- Settles O38: the scalar registers are zero by definition, and the four buffers are the buffer of zeros. -/
theorem resetValues : Obligations.ResetValues :=
  ⟨rfl, rfl, rfl, rfl, rfl, rfl, rfl, rfl, fun i _ => bufByte_bufZero _ i, rfl, fun i _ => bufByte_bufZero _ i,
    rfl, rfl, rfl, rfl, rfl, fun i _ => bufByte_bufZero _ i, fun i _ => bufByte_bufZero _ i⟩

end Sys2Proof.Machine
end

section
/-! What the next input of the host can make a step do, said once (R41, R42, R55, R61, R205). -/

namespace Sys2Proof.Machine

theorem portEvent_eq_reset_iff (p : PortIn) : portEvent p = .reset ↔ p.rst = true := by
  simp only [portEvent]
  split_ifs <;> simp_all

theorem portEvent_eq_write_iff (p : PortIn) (a : PortAddr) (v : Word) :
    portEvent p = .write a v ↔ p.rst = false ∧ p.req = true ∧ p.we = true ∧ p.addr = a ∧ p.wdata = v := by
  simp only [portEvent]
  split_ifs <;> simp_all

/-- Every way a step can end: the kind of input the host presents, with the next state it leads to. -/
inductive Transition (s : State) : State → Prop where
  | noInput : s.inbox = [] → Transition s (setOut .noAck s)
  | reset {p : PortIn} {rest : List PortIn} : s.inbox = p :: rest → portEvent p = .reset →
      Transition s (setOut .noAck (resetBlock (setInbox rest s)))
  | idle {p : PortIn} {rest : List PortIn} : s.inbox = p :: rest → portEvent p = .idle →
      Transition s (setOut .noAck (setInbox rest s))
  | read {p : PortIn} {rest : List PortIn} {a : PortAddr} : s.inbox = p :: rest → portEvent p = .read a →
      Transition s (setOut (.ackRead (readReg (regAt a) s)) (setInbox rest s))
  | write {p : PortIn} {rest : List PortIn} {a : PortAddr} {v : Word} : s.inbox = p :: rest →
      portEvent p = .write a v → regAt a ≠ .cmd →
      Transition s (writeReg (regAt a) v (setOut .ackWrite (setInbox rest s)))
  | illegal {p : PortIn} {rest : List PortIn} {a : PortAddr} {v : Word} {d : DecodeError} : s.inbox = p :: rest →
      portEvent p = .write a v → regAt a = .cmd → decode v = .error d →
      Transition s (setErr .illegalCommand (setOut .ackWrite (setInbox rest s)))
  | command {p : PortIn} {rest : List PortIn} {a : PortAddr} {v : Word} {i : Instr} {t : State} :
      s.inbox = p :: rest → portEvent p = .write a v → regAt a = .cmd → decode v = .ok i →
      exec i (setOut .ackWrite (setInbox rest s)) = .next t → Transition s t

theorem transition_of_step {s t : State} (h : step s = .next t) : Transition s t := by
  cases hin : s.inbox with
  | nil =>
    rw [step_idle s hin] at h
    cases h
    exact .noInput hin
  | cons p rest =>
    cases he : portEvent p with
    | reset =>
      rw [step_reset s p rest hin he] at h
      cases h
      exact .reset hin he
    | idle =>
      rw [step_noReq s p rest hin he] at h
      cases h
      exact .idle hin he
    | read a =>
      rw [step_read s p rest a hin he] at h
      cases h
      exact .read hin he
    | write a v =>
      by_cases hc : regAt a = .cmd
      · rw [step_cmd s p rest a v hin he hc] at h
        cases hd : decode v with
        | ok i =>
          rw [hd] at h
          exact .command hin he hc hd h
        | error d =>
          rw [hd] at h
          cases h
          exact .illegal hin he hc hd
      · rw [step_write s p rest a v hin he hc] at h
        cases h
        exact .write hin he hc

end Sys2Proof.Machine
end

section
/-! The invariant of reachable states (R34), in three parts on the registers it speaks of: the error, the truncation result
and the code. Every operation of a step keeps each part. -/

namespace Sys2Proof.Machine

/-- The error values the block leaves in `STATUS.ERR`: 0, 2, 5, 6, 7 and 8 (R34, R66). -/
def BlockErr (e : ErrCode) : Prop :=
  e = .none ∨ e = .invalidDigestLength ∨ e = .unsupportedAlgorithm ∨ e = .invalidDigits ∨ e = .keyTooLong ∨
    e = .illegalCommand

/-- A `BINCODE`, `CODEVAL` and `CODEDIG` that belong together (R34). -/
structure ResultOk (p : BitVec 31) (v : BitVec 30) (d : BitVec 4) : Prop where
  width : d.toNat ≤ 9
  fits : v.toNat < 10 ^ d.toNat
  remainder : 0 < d.toNat → v.toNat = p.toNat % 10 ^ d.toNat

/-- A `CODE` of `CODELEN` decimal digits, zero above them (R34). -/
structure CodeOk (c : Buf Config.codeMax) (n : BitVec 4) : Prop where
  len : n.toNat ≤ 9
  digit : ∀ i, i < n.toNat → 0x30 ≤ (bufByte c i).toNat ∧ (bufByte c i).toNat ≤ 0x39
  zero : ∀ i, n.toNat ≤ i → i < 12 → bufByte c i = 0

theorem statusWord_internal (e : ErrCode) :
    (statusWord e).getLsbD 8 = true ↔ (errCode e = 2 ∨ errCode e = 3) := by cases e <;> decide

theorem setWidth_offset_le (o : BitVec 4) : (o.setWidth 32).toNat ≤ 15 := by
  have := o.isLt
  rw [BitVec.toNat_setWidth]
  omega

theorem setWidth_bincode_lt (p : BitVec 31) : (p.setWidth 32).toNat < 2 ^ 31 := by
  have := p.isLt
  rw [BitVec.toNat_setWidth]
  omega

/-- The invariant is its three parts: the clauses on `INTERNAL`, `OFFSET` and `BINCODE` hold of every state. -/
theorem inv_iff (s : State) :
    Inv s ↔ BlockErr s.err ∧ ResultOk s.bincode s.codeval s.codedig ∧ CodeOk s.code s.codelen where
  mp h := ⟨h.errReachable, ⟨h.codedigLe, h.codevalLt, h.codevalEq⟩, ⟨h.codelenLe, h.codeDigit, h.codeZero⟩⟩
  mpr := fun ⟨he, hr, hc⟩ =>
    { errReachable := he
      internalBit := statusWord_internal s.err
      offsetLe := setWidth_offset_le s.offset
      bincodeLt := setWidth_bincode_lt s.bincode
      codedigLe := hr.width, codevalLt := hr.fits, codevalEq := hr.remainder
      codelenLe := hc.len, codeDigit := hc.digit, codeZero := hc.zero }

@[simp] theorem blockErr_none : BlockErr .none := .inl rfl
@[simp] theorem blockErr_invalidDigestLength : BlockErr .invalidDigestLength := .inr (.inl rfl)
@[simp] theorem blockErr_unsupportedAlgorithm : BlockErr .unsupportedAlgorithm := .inr (.inr (.inl rfl))
@[simp] theorem blockErr_invalidDigits : BlockErr .invalidDigits := .inr (.inr (.inr (.inl rfl)))
@[simp] theorem blockErr_keyTooLong : BlockErr .keyTooLong := .inr (.inr (.inr (.inr (.inl rfl))))
@[simp] theorem blockErr_illegalCommand : BlockErr .illegalCommand := .inr (.inr (.inr (.inr (.inr rfl))))

/-- The cleared result: width 0, and the value 0 is below `10 ^ 0` (R25, R142). -/
@[simp] theorem resultOk_zero : ResultOk 0#31 0#30 0#4 where
  width := by decide
  fits := by decide
  remainder := by decide

/-- The cleared code: the empty string (R153). -/
@[simp] theorem codeOk_zero : CodeOk (bufZero _) 0#4 where
  len := by decide
  digit i hi := absurd hi (Nat.not_lt_zero i)
  zero i _ _ := bufByte_bufZero _ i

/-- What `TRUNC` writes under a legal width (R139, R142). -/
theorem resultOk_truncReduce (p : BitVec 31) (g : Word) (hg : digitsOk g = true) :
    ResultOk p (truncReduce p g.toNat) (g.setWidth 4) := by
  have hle : g.toNat ≤ 9 := ((digitsOk_iff g).mp hg).2
  have hw : (g.setWidth 4).toNat = g.toNat := setWidth_digits_toNat g hg
  have hv : (truncReduce p g.toNat).toNat = p.toNat % 10 ^ g.toNat := truncReduce_toNat p g.toNat hle
  constructor
  case width => rwa [hw]
  case fits =>
    rw [hv, hw]
    exact Nat.mod_lt _ (Nat.pow_pos (by decide))
  case remainder => rw [hv, hw]; exact fun _ => rfl

/-- A result that belongs together is in the domain of the formatter (R150, R153). -/
theorem ResultOk.formatDefined {p : BitVec 31} {v : BitVec 30} {d : BitVec 4} (h : ResultOk p v d) :
    formatDefined v d = true := (formatDefined_iff v d).mpr ⟨h.width, h.fits⟩

/-- What `FORMAT` writes inside the formatter's domain (R150, R153). -/
theorem codeOk_codeBytes {v : BitVec 30} {d : BitVec 4} (h : formatDefined v d = true) : CodeOk (codeBytes v d) d := by
  have hd : d.toNat ≤ 9 := ((formatDefined_iff v d).mp h).1
  have hbyte (i : Nat) (hi : i < 12) : bufByte (codeBytes v d) i = (decFormat v.toNat d.toNat).getD i 0 := by
    rw [codeBytes_defined v d h, bufByte_bufOf, if_pos hi]
  constructor
  case len => exact hd
  case digit =>
    intro i hi
    have := Nat.mod_lt (v.toNat / 10 ^ (d.toNat - 1 - i)) (show 0 < 10 by decide)
    rw [hbyte i (by omega), decFormat_getD _ _ _ hi]
    omega
  case zero =>
    intro i hi hlt
    rw [hbyte i hlt]
    exact List.getD_eq_default _ _ (by rwa [decFormat_length])

/-- Settles O49: the error is none, and the result and the code are the cleared ones. -/
theorem resetMeetsInvariant : Obligations.ResetMeetsInvariant :=
  (inv_iff _).mpr ⟨blockErr_none, resultOk_zero, codeOk_zero⟩

theorem execEncode_keeps_inv {s t : State} (hs : Inv s) (h : execEncode s = .next t) : Inv t := by
  obtain ⟨-, hr, hc⟩ := (inv_iff s).mp hs
  rw [execEncode_eq] at h
  cases h
  simp [inv_iff, hr, hc]

theorem execHmac_keeps_inv {s t : State} (hs : Inv s) (h : execHmac s = .next t) : Inv t := by
  obtain ⟨-, hr, hc⟩ := (inv_iff s).mp hs
  cases ha : algOf s.alg with
  | none =>
    rw [execHmac_unsupported s ha] at h
    cases h
    simp [inv_iff, hr, hc]
  | some a =>
    cases hk : klenOk s with
    | false =>
      rw [execHmac_tooLong s a ha hk] at h
      cases h
      simp [inv_iff, hr, hc]
    | true =>
      rw [execHmac_ok s a ha hk] at h
      cases h
      simp [inv_iff, hr, hc]

theorem execTrunc_keeps_inv {s t : State} (hs : Inv s) (h : execTrunc s = .next t) : Inv t := by
  obtain ⟨-, -, hc⟩ := (inv_iff s).mp hs
  cases hn : digestLenOk s.dlen with
  | false =>
    rw [execTrunc_error s _ (dynTrunc_badLength _ _ _ hn)] at h
    cases h
    simp [inv_iff, hc]
  | true =>
    cases hg : digitsOk s.digits with
    | false =>
      rw [execTrunc_error s _ (dynTrunc_badDigits _ _ _ hn hg)] at h
      cases h
      simp [inv_iff, hc]
    | true =>
      rw [execTrunc_ok s _ (dynTrunc_ok _ _ _ hn hg)] at h
      cases h
      simp [inv_iff, hc, resultOk_truncReduce _ _ hg]

theorem execFormat_keeps_inv {s t : State} (hs : Inv s) (h : execFormat s = .next t) : Inv t := by
  obtain ⟨-, hr, -⟩ := (inv_iff s).mp hs
  rw [execFormat_eq] at h
  cases h
  simp [inv_iff, hr, codeOk_codeBytes hr.formatDefined]

/-- `HOTP` leaves the cleared result, and the cleared code or the one it formatted: it needs nothing of the state before. -/
theorem execHotp_inv {s t : State} (h : execHotp s = .next t) : Inv t := by
  cases ha : algOf s.alg with
  | none =>
    rw [execHotp_unsupported s ha] at h
    cases h
    simp [inv_iff]
  | some a =>
    cases hk : klenOk s with
    | false =>
      rw [execHotp_tooLong s a ha hk] at h
      cases h
      simp [inv_iff]
    | true =>
      cases hg : digitsOk s.digits with
      | false =>
        rw [execHotp_badDigits s a ha hk hg] at h
        cases h
        simp [inv_iff]
      | true =>
        rw [execHotp_ok s a ha hk hg] at h
        cases h
        simp [inv_iff, codeOk_codeBytes (hotpTrunc_defined a s hg)]

theorem inv_setOut_iff (o : PortOut) (s : State) : Inv (setOut o s) ↔ Inv s := by simp [inv_iff]

theorem inv_setInbox_iff (l : List PortIn) (s : State) : Inv (setInbox l s) ↔ Inv s := by simp [inv_iff]

theorem inv_writeReg_iff (r : PortReg) (v : Word) (s : State) : Inv (writeReg r v s) ↔ Inv s := by
  simp [inv_iff, writeReg_results]

/-- `Inv` reads neither side of the port, so the reset block meets it as the reset state does. -/
theorem inv_resetBlock (s : State) : Inv (resetBlock s) := by simp [inv_iff]

theorem exec_keeps_inv {i : Instr} {s t : State} (hs : Inv s) (h : exec i s = .next t) : Inv t := by
  cases i with
  | clear =>
    cases h
    exact inv_resetBlock s
  | encode => exact execEncode_keeps_inv hs h
  | hmac => exact execHmac_keeps_inv hs h
  | trunc => exact execTrunc_keeps_inv hs h
  | format => exact execFormat_keeps_inv hs h
  | hotp => exact execHotp_inv h

/-- Settles O50: an input other than a command touches none of the three parts or resets them, an illegal word writes one of
the block's errors, and each command keeps the invariant. -/
theorem stepKeepsInvariant : Obligations.StepKeepsInvariant := by
  intro s t hs h
  cases transition_of_step h with
  | noInput => exact (inv_setOut_iff _ _).mpr hs
  | reset => exact (inv_setOut_iff _ _).mpr (inv_resetBlock _)
  | idle | read => exact (inv_setOut_iff _ _).mpr ((inv_setInbox_iff _ _).mpr hs)
  | write =>
    rw [inv_writeReg_iff, inv_setOut_iff, inv_setInbox_iff]
    exact hs
  | illegal =>
    obtain ⟨-, hr, hc⟩ := (inv_iff s).mp hs
    simp [inv_iff, hr, hc]
  | command _ _ _ _ hx => exact exec_keeps_inv ((inv_setOut_iff _ _).mpr ((inv_setInbox_iff _ _).mpr hs)) hx

/-- Settles O51, by induction on the run: it holds at reset, the host's inputs are none of its registers, and every step
keeps it. -/
theorem reachableStatesMeetInvariant : Obligations.ReachableStatesMeetInvariant := by
  intro s hs
  induction hs with
  | reset => exact resetMeetsInvariant
  | host l _ ih => exact (inv_setInbox_iff l _).mpr ih
  | step _ h ih => exact stepKeepsInvariant _ _ ih h

end Sys2Proof.Machine
end

section
/-! What the port shows of the state and what it changes: a written word reads back, `KEY` cannot be read, and only commands
change the results (R12, R15, R29, R42). -/

namespace Sys2Proof.Machine

/-- The registers that return what was written to them: the read-write scalars and the digest words (R12, R30). -/
def readsBack : PortReg → Bool
  | .alg | .digits | .klen | .counterLo | .counterHi | .dlen | .digestW _ => true
  | .id | .cmd | .status | .msgW _ | .offset | .bincode | .codeval | .codedig | .codelen | .codeW _ | .keyW _
  | .reserved _ => false

/-- The byte offsets of those registers (R30). -/
theorem readsBack_regAt : ∀ a : PortAddr,
    (0x00C ≤ 4 * a.toNat ∧ 4 * a.toNat < 0x020) ∨ 4 * a.toNat = 0x028 ∨ (0x080 ≤ 4 * a.toNat ∧ 4 * a.toNat < 0x0C0) →
      readsBack (regAt a) = true := by
  decide +kernel

theorem readReg_writeReg (r : PortReg) (v : Word) (s : State) (hb : readsBack r = true) (hi : regIndexOk r = true) :
    readReg r (writeReg r v s) = v := by
  cases r with
  | alg | digits | klen | dlen => rfl
  | counterLo => exact BitVec.extractLsb'_append_eq_right
  | counterHi => exact BitVec.extractLsb'_append_eq_left
  | digestW w =>
    have hw : w < 16 := by simpa [regIndexOk] using hi
    exact bufWord_setWord s.digest w v (show 4 * w + 3 < 64 by omega)
  | id | cmd | status | msgW | offset | bincode | codeval | codedig | codelen | codeW | keyW | reserved =>
    simp [readsBack] at hb

/-- Settles O45: the write puts the word in the register and leaves the next input and `ERR`, and the read returns it. -/
theorem writtenWordReadsBack : Obligations.WrittenWordReadsBack := by
  intro s a v rest hin ha
  have hb := readsBack_regAt a ha
  have hc : regAt a ≠ .cmd := by
    intro hc
    simp [hc, readsBack] at hb
  have hw := step_write s _ _ a v hin rfl hc
  have hnext : (writeReg (regAt a) v (setOut .ackWrite (setInbox (pinsRead a :: rest) s))).inbox = pinsRead a :: rest := by
    simp [writeReg_results]
  refine ⟨_, _, hw, step_read _ _ rest a hnext rfl, ?_, ?_⟩
  · rw [setOut_out, readReg_writeReg _ _ _ hb (regIndexOk_regAt a)]
  · simp [writeReg_results]

theorem portEvent_of_not_write (p : PortIn) (hr : p.rst = false) (hw : p.we = false) :
    portEvent p = .idle ∨ portEvent p = .read p.addr := by
  cases hq : p.req <;> simp [portEvent, hr, hw, hq]

/-- No register of the window shows a byte of `KEY` (R29). -/
theorem readReg_with_key (r : PortReg) (s : State) (k : Buf Config.keyMax) :
    readReg r { s with key := k } = readReg r s := by cases r <;> rfl

/-- Settles O42: an idle step copies `KEY`, and the word a read returns is the same under any `KEY`. -/
theorem keyCannotBeRead : Obligations.KeyCannotBeRead := by
  intro s t k p rest hin hr hw h
  cases portEvent_of_not_write p hr hw with
  | inl he =>
    rw [step_noReq s p rest hin he] at h
    cases h
    exact step_noReq { s with key := k } p rest hin he
  | inr he =>
    rw [step_read s p rest _ hin he] at h
    cases h
    rw [step_read { s with key := k } p rest _ hin he, readReg_with_key]
    rfl

theorem regAt_ne_cmd_of_write {p : PortIn} {a : PortAddr} {v : Word} (he : portEvent p = .write a v)
    (hp : p.req = false ∨ p.we = false ∨ p.addr ≠ Config.cmdAddr) : regAt a ≠ .cmd := by
  obtain ⟨-, hreq, hwe, rfl, -⟩ := (portEvent_eq_write_iff p a v).mp he
  rw [Ne, regAt_eq_cmd_iff]
  simpa [hreq, hwe] using hp

/-- Settles O48: the only inputs that reach a result register are reset and a write to `CMD`. -/
theorem onlyCommandsChangeResults : Obligations.OnlyCommandsChangeResults := by
  intro s t p rest hin hrst hp h
  cases transition_of_step h with
  | noInput hin' => cases hin.symm.trans hin'
  | reset hin' he =>
    cases hin.symm.trans hin'
    simp [portEvent_eq_reset_iff, hrst] at he
  | idle | read => simp
  | write => simp [writeReg_results]
  | illegal hin' he hc | command hin' he hc =>
    cases hin.symm.trans hin'
    exact absurd hc (regAt_ne_cmd_of_write he hp)

end Sys2Proof.Machine
end

section
/-! The byte lanes of a buffer word, and the halves of the counter, as arithmetic on naturals (R19, R46). -/

namespace Sys2Proof.Machine

theorem toNat_append_eq_add {m n : Nat} (x : BitVec m) (y : BitVec n) :
    (x ++ y).toNat = x.toNat * 2 ^ n + y.toNat := by
  rw [BitVec.toNat_append, ← Nat.shiftLeft_add_eq_or_of_lt y.isLt, Nat.shiftLeft_eq]

theorem bufWord_toNat {n : Nat} (b : Buf n) (w : Nat) :
    (bufWord b w).toNat = (bufByte b (4 * w)).toNat + 2 ^ 8 * (bufByte b (4 * w + 1)).toNat +
      2 ^ 16 * (bufByte b (4 * w + 2)).toNat + 2 ^ 24 * (bufByte b (4 * w + 3)).toNat := by
  simp only [bufWord, toNat_append_eq_add]
  omega

theorem bufByte_setWord_lane {n : Nat} (b : Buf n) (w : Nat) (v : Word) (h : 4 * w + 3 < n) (j : Nat) (hj : j < 4) :
    bufByte (bufSetWord b w v) (4 * w + j) = laneByte v j := by
  rw [bufByte_setWord b w v _ h, if_pos (by omega), show (4 * w + j) % 4 = j by omega]

theorem bufByte_setWord_of_ne {n : Nat} (b : Buf n) (w : Nat) (v : Word) (h : 4 * w + 3 < n) (i : Nat)
    (hi : i / 4 ≠ w) : bufByte (bufSetWord b w v) i = bufByte b i := by
  rw [bufByte_setWord b w v i h, if_neg hi]

/-- Settles O44: the word is its four bytes weighted, a write puts the lanes in them and leaves the rest, and the lanes put
together are the word again. -/
theorem bufferLanes : Obligations.BufferLanes := fun _ b w v h =>
  ⟨bufWord_toNat b w, bufByte_setWord_lane b w v h, bufByte_setWord_of_ne b w v h, bufWord_setWord b w v h⟩

theorem bufSetWord_bufSetWord {n : Nat} (b : Buf n) (w : Nat) (v : Word) (h : 4 * w + 3 < n) :
    bufSetWord (bufSetWord b w v) w v = bufSetWord b w v := by
  apply buf_ext
  intro i _
  by_cases hi : i / 4 = w
  · simp only [bufByte_setWord _ w v i h, if_pos hi]
  · exact bufByte_setWord_of_ne _ w v h i hi

theorem lowHalf_toNat (c : DWord) : (c.extractLsb' 0 32).toNat = c.toNat % 2 ^ 32 := by
  rw [BitVec.extractLsb'_toNat, Nat.shiftRight_zero]

theorem highHalf_toNat (c : DWord) : (c.extractLsb' 32 32).toNat = c.toNat / 2 ^ 32 := by
  have := c.isLt
  rw [BitVec.extractLsb'_toNat, Nat.shiftRight_eq_div_pow]
  omega

end Sys2Proof.Machine
end

section
/-! The register map from the byte offset to the register (R30): which offset leads to which register, and which offsets read
zero or ignore a write. -/

namespace Sys2Proof.Machine

/-- The registers with a meaning of their own: all but the reserved words, each buffer word within its buffer (R30). -/
def isMapped : PortReg → Bool
  | .reserved _ => false
  | r => regIndexOk r

theorem regAtOffset_regOffset (r : PortReg) (hm : isMapped r = true) : regAtOffset (regOffset r) = r := by
  cases r with
  | id | cmd | status | alg | digits | klen | counterLo | counterHi | dlen | offset | bincode | codeval | codedig
  | codelen => rfl
  | msgW w | codeW w | digestW w | keyW w =>
    simp only [isMapped, regIndexOk, decide_eq_true_eq] at hm
    interval_cases w <;> rfl
  | reserved => simp [isMapped] at hm

/-- A register of the map stands at its own offset (R30). -/
theorem regAt_of_offset {a : PortAddr} {r : PortReg} (hm : isMapped r = true) (ha : 4 * a.toNat = regOffset r) :
    regAt a = r := by
  rw [regAt, ha, regAtOffset_regOffset r hm]

/-- The registers a read shows nothing of (R41). -/
def readsZero : PortReg → Bool
  | .cmd | .keyW _ | .reserved _ => true
  | .id | .status | .alg | .digits | .klen | .counterLo | .counterHi | .msgW _ | .dlen | .offset | .bincode | .codeval
  | .codedig | .codelen | .codeW _ | .digestW _ => false

/-- The reserved words and `KEY` are what stands at `0x04C` to `0x07C` and from `0x0C0` on (R30, R48). -/
theorem readsZero_of_regOffset (r : PortReg) (hi : regIndexOk r = true)
    (ho : (0x04C ≤ regOffset r ∧ regOffset r < 0x080) ∨ 0x0C0 ≤ regOffset r) : readsZero r = true := by
  cases r with
  | cmd | keyW | reserved => rfl
  | id | status | alg | digits | klen | counterLo | counterHi | dlen | offset | bincode | codeval | codedig
  | codelen => simp [regOffset] at ho
  | msgW w | codeW w | digestW w =>
    simp only [regIndexOk, decide_eq_true_eq, regOffset] at hi ho
    omega

theorem readsZero_regAt (a : PortAddr) (ha : (0x04C ≤ 4 * a.toNat ∧ 4 * a.toNat < 0x080) ∨ 0x0C0 ≤ 4 * a.toNat) :
    readsZero (regAt a) = true :=
  readsZero_of_regOffset _ (regIndexOk_regAt a) (by rwa [regOffset_regAt])

theorem readReg_of_readsZero (r : PortReg) (s : State) (h : readsZero r = true) : readReg r s = 0 := by
  cases r with
  | cmd | keyW | reserved => rfl
  | id | status | alg | digits | klen | counterLo | counterHi | msgW | dlen | offset | bincode | codeval | codedig
  | codelen | codeW | digestW => simp [readsZero] at h

/-- The read-only registers and the reserved words (R42, R48). -/
def ignoresWrites : PortReg → Bool
  | .id | .status | .msgW _ | .offset | .bincode | .codeval | .codedig | .codelen | .codeW _ | .reserved _ => true
  | .cmd | .alg | .digits | .klen | .counterLo | .counterHi | .dlen | .digestW _ | .keyW _ => false

/-- The byte offsets R42 leaves unchanged by a write: those of the read-only registers and of the reserved words. -/
def IgnoredOffset (off : Nat) : Prop :=
  off = 0x000 ∨ off = 0x008 ∨ (0x020 ≤ off ∧ off < 0x028) ∨ (0x02C ≤ off ∧ off < 0x080) ∨ (0x0C0 ≤ off ∧ off < 0x100) ∨
    0x200 ≤ off

theorem ignoresWrites_of_regOffset (r : PortReg) (hi : regIndexOk r = true) (ho : IgnoredOffset (regOffset r)) :
    ignoresWrites r = true := by
  unfold IgnoredOffset at ho
  cases r with
  | id | status | msgW | offset | bincode | codeval | codedig | codelen | codeW | reserved => rfl
  | cmd | alg | digits | klen | counterLo | counterHi | dlen => simp [regOffset] at ho
  | digestW w | keyW w =>
    simp only [regIndexOk, decide_eq_true_eq, regOffset] at hi ho
    omega

theorem ignoresWrites_regAt (a : PortAddr) (ha : IgnoredOffset (4 * a.toNat)) : ignoresWrites (regAt a) = true :=
  ignoresWrites_of_regOffset _ (regIndexOk_regAt a) (by rwa [regOffset_regAt])

theorem ne_cmd_of_ignoresWrites {r : PortReg} (h : ignoresWrites r = true) : r ≠ .cmd := by
  rintro rfl
  simp [ignoresWrites] at h

theorem writeReg_of_ignoresWrites (r : PortReg) (v : Word) (s : State) (h : ignoresWrites r = true) :
    writeReg r v s = s := by
  cases r with
  | id | status | msgW | offset | bincode | codeval | codedig | codelen | codeW | reserved => rfl
  | cmd | alg | digits | klen | counterLo | counterHi | dlen | digestW | keyW => simp [ignoresWrites] at h

end Sys2Proof.Machine
end

section
/-! Whole transactions on the port: reset, reads, writes and the reserved offsets (R41, R42, R48, R49, R55). -/

namespace Sys2Proof.Machine

/-- Settles O39: `rst` comes before `req`, so the event is reset whatever the other pins are. -/
theorem resetAbandonsTransaction : Obligations.ResetAbandonsTransaction := fun s p rest hin hr =>
  step_reset s p rest hin ((portEvent_eq_reset_iff p).mpr hr)

theorem portEvent_of_read (p : PortIn) (hr : p.rst = false) (hq : p.req = true) (hw : p.we = false) :
    portEvent p = .read p.addr := by simp [portEvent, hr, hq, hw]

/-- Settles O41: the offset fixes the register, and the word is what a read of it returns: its field, widened with zeros, or
zero. -/
theorem readTransaction : Obligations.ReadTransaction := by
  intro s p rest hin hr hq hw
  have reads (r : PortReg) (hm : isMapped r = true) (ha : 4 * p.addr.toNat = regOffset r) :
      readReg (regAt p.addr) s = readReg r s := by rw [regAt_of_offset hm ha]
  have zero (ha : (0x04C ≤ 4 * p.addr.toNat ∧ 4 * p.addr.toNat < 0x080) ∨ 0x0C0 ≤ 4 * p.addr.toNat) :
      readReg (regAt p.addr) s = 0 := readReg_of_readsZero _ s (readsZero_regAt p.addr ha)
  refine ⟨_, step_read s p rest _ hin (portEvent_of_read p hr hq hw), reads .id rfl, reads .cmd rfl, reads .status rfl,
    reads .alg rfl, reads .digits rfl, reads .klen rfl, fun ha => ?lo, fun ha => ?hi,
    fun w hw => reads (.msgW w) (decide_eq_true hw), reads .dlen rfl, fun ha => ?offset, fun ha => ?bincode,
    fun ha => ?codeval, fun ha => ?codedig, fun ha => ?codelen, fun w hw => reads (.codeW w) (decide_eq_true hw),
    fun w hw => reads (.digestW w) (decide_eq_true hw), fun ha => zero (by omega), fun ha hb => zero (by omega),
    fun ha _ => zero (by omega)⟩
  case lo => rw [reads .counterLo rfl ha, readReg, lowHalf_toNat]
  case hi => rw [reads .counterHi rfl ha, readReg, highHalf_toNat]
  case offset => rw [reads .offset rfl ha, readReg, BitVec.toNat_setWidth_of_le (by decide)]
  case bincode => rw [reads .bincode rfl ha, readReg, BitVec.toNat_setWidth_of_le (by decide)]
  case codeval => rw [reads .codeval rfl ha, readReg, BitVec.toNat_setWidth_of_le (by decide)]
  case codedig => rw [reads .codedig rfl ha, readReg, BitVec.toNat_setWidth_of_le (by decide)]
  case codelen => rw [reads .codelen rfl ha, readReg, BitVec.toNat_setWidth_of_le (by decide)]

theorem exec_has_next (i : Instr) (s : State) : ∃ t, exec i s = .next t := by
  cases i with
  | clear | encode | hmac | trunc | format | hotp => exact ⟨_, rfl⟩

theorem step_has_next (s : State) : ∃ t, step s = .next t := by
  unfold step
  cases nextAction s with
  | done t => exact ⟨t, rfl⟩
  | run i u => exact exec_has_next i u

/-- Settles O43: a write to `CMD` is the command of the word; any other is `writeReg` of the register the offset fixes, on
the acknowledged state. -/
theorem writeTransaction : Obligations.WriteTransaction := by
  intro s a v rest hin
  obtain ⟨t, ht⟩ := step_has_next s
  have stored (hc : regAt a ≠ .cmd) : t = writeReg (regAt a) v (accepted rest s) := by
    rw [step_write s _ rest a v hin rfl hc] at ht
    cases ht
    rfl
  have writes (r : PortReg) (hm : isMapped r = true) (hc : r ≠ .cmd) (ha : 4 * a.toNat = regOffset r) :
      t = writeReg r v (accepted rest s) := by
    have hr := regAt_of_offset hm ha
    rw [stored (hr ▸ hc), hr]
  refine ⟨t, ht, fun ha => ?cmd, writes .alg rfl nofun, writes .digits rfl nofun, writes .klen rfl nofun,
    fun ha => ?lo, fun ha => ?hi, writes .dlen rfl nofun, fun w hw => writes (.digestW w) (decide_eq_true hw) nofun,
    fun w hw => writes (.keyW w) (decide_eq_true hw) nofun, fun ha => ?ignored⟩
  case cmd =>
    rw [step_cmd s _ rest a v hin rfl (regAt_of_offset (r := .cmd) rfl ha)] at ht
    constructor
    · intro i hi
      rwa [hi] at ht
    · intro e he
      rw [he] at ht
      cases ht
      rfl
  case lo =>
    obtain rfl := writes .counterLo rfl nofun ha
    exact ⟨rfl, (toNat_append_eq_add _ v).trans (by rw [highHalf_toNat]; rfl)⟩
  case hi =>
    obtain rfl := writes .counterHi rfl nofun ha
    exact ⟨rfl, (toNat_append_eq_add v _).trans (by rw [lowHalf_toNat]; rfl)⟩
  case ignored =>
    have hr := ignoresWrites_regAt a ha
    rw [stored (ne_cmd_of_ignoresWrites hr), writeReg_of_ignoresWrites _ v _ hr]

/-- Settles O46: a reserved word is one a read shows nothing of and one that ignores writes. -/
theorem reservedOffsets : Obligations.ReservedOffsets := by
  intro s a rest ha
  constructor
  · intro hin
    rw [step_read s _ rest a hin rfl, readReg_of_readsZero _ s (readsZero_regAt a (by omega))]
    rfl
  · intro v hin
    have hr := ignoresWrites_regAt a (by unfold IgnoredOffset; omega)
    rw [step_write s _ rest a v hin rfl (ne_cmd_of_ignoresWrites hr), writeReg_of_ignoresWrites _ v _ hr]
    rfl

theorem writeReg_setInbox (r : PortReg) (v : Word) (l : List PortIn) (s : State) :
    writeReg r v (setInbox l s) = setInbox l (writeReg r v s) := by cases r <;> rfl

theorem writeReg_writeReg (r : PortReg) (v : Word) (s : State) (hi : regIndexOk r = true) :
    writeReg r v (writeReg r v s) = writeReg r v s := by
  cases r with
  | alg | digits | klen | dlen => rfl
  | counterLo => exact congrArg (fun high : Word => { s with counter := high ++ v }) BitVec.extractLsb'_append_eq_left
  | counterHi => exact congrArg (fun low : Word => { s with counter := v ++ low }) BitVec.extractLsb'_append_eq_right
  | digestW w =>
    have hw : w < 16 := by simpa [regIndexOk] using hi
    simp [writeReg, bufSetWord_bufSetWord s.digest w v (show 4 * w + 3 < 64 by omega)]
  | keyW w =>
    have hw : w < 64 := by simpa [regIndexOk] using hi
    simp [writeReg, bufSetWord_bufSetWord s.key w v (show 4 * w + 3 < 256 by omega)]
  | id | cmd | status | msgW | offset | bincode | codeval | codedig | codelen | codeW | reserved => rfl

/-- Settles O47: the register already holds what the second write stores, and taking an input is apart from the storage. -/
theorem writeTwiceIsOnce : Obligations.WriteTwiceIsOnce := by
  intro s a v rest ha hin
  have hc : regAt a ≠ .cmd := mt (regAt_eq_cmd_iff a).mp ha
  have hw := step_write s _ _ a v hin rfl hc
  rw [writeReg_setOut, writeReg_setInbox] at hw
  refine ⟨_, _, hw, step_write _ _ rest a v rfl rfl hc, ?_⟩
  simp only [writeReg_setOut, writeReg_setInbox, writeReg_writeReg _ v s (regIndexOk_regAt a)]
  rfl

end Sys2Proof.Machine
end

section
/-! The decoder and the encoder of command words (R60 to R64): the fields and the word give each other back, and each answer
of `decode` as a condition on the word. -/

namespace Sys2Proof

theorem cmdFields_cmdWord (f : CmdFields) : cmdFields (cmdWord f) = f := by
  simp only [cmdFields, cmdWord, BitVec.extractLsb'_append_eq_left, BitVec.extractLsb'_append_eq_right]

theorem cmdWord_cmdFields (w : Word) : cmdWord (cmdFields w) = w :=
  (BitVec.extractLsb'_append_extractLsb'_eq_extractLsb' rfl).trans BitVec.extractLsb'_eq_self

/-- The word of a command is the one whose `ZERO` is zero and whose `OP` is the command's opcode (R60, R62). -/
theorem eq_encode_iff (w : Word) (i : Instr) : w = encode i ↔ (cmdFields w).zero = 0 ∧ (cmdFields w).op = opcode i := by
  constructor
  · rintro rfl
    rw [encode, cmdFields_cmdWord]
    exact ⟨rfl, rfl⟩
  · rintro ⟨hz, ho⟩
    rw [← cmdWord_cmdFields w, encode, ← hz, ← ho]

theorem opInstr_eq_some_iff (op : BitVec 4) (i : Instr) : opInstr op = some i ↔ op = opcode i := by
  revert op
  cases i <;> decide

theorem opInstr_eq_none_iff : ∀ op : BitVec 4, opInstr op = none ↔ op.toNat < 1 ∨ 6 < op.toNat := by decide

theorem decode_of_zero_ne {w : Word} (hz : (cmdFields w).zero ≠ 0) : decode w = .error .zeroFieldSet := if_neg hz

/-- With `ZERO` zero the opcode alone decides (R61, R64). -/
theorem decode_of_zero_eq {w : Word} (hz : (cmdFields w).zero = 0) :
    decode w = ((opInstr (cmdFields w).op).elim (.error (.reservedOpcode (cmdFields w).op)) .ok) := by
  simp only [decode, if_pos hz]
  cases opInstr (cmdFields w).op <;> rfl

theorem decode_eq_ok_iff (w : Word) (i : Instr) : decode w = .ok i ↔ w = encode i := by
  rw [eq_encode_iff, ← opInstr_eq_some_iff]
  by_cases hz : (cmdFields w).zero = 0
  · rw [decode_of_zero_eq hz]
    cases opInstr (cmdFields w).op <;> simp [hz]
  · rw [decode_of_zero_ne hz]
    exact iff_of_false nofun fun h => hz h.1

theorem decode_eq_zeroFieldSet_iff (w : Word) : decode w = .error .zeroFieldSet ↔ (cmdFields w).zero ≠ 0 := by
  by_cases hz : (cmdFields w).zero = 0
  · rw [decode_of_zero_eq hz]
    cases opInstr (cmdFields w).op <;> simp [hz]
  · exact iff_of_true (decode_of_zero_ne hz) hz

theorem decode_eq_reservedOpcode_iff (w : Word) (op : BitVec 4) :
    decode w = .error (.reservedOpcode op) ↔
      (cmdFields w).zero = 0 ∧ (cmdFields w).op = op ∧ (op.toNat < 1 ∨ 6 < op.toNat) := by
  rw [← opInstr_eq_none_iff]
  by_cases hz : (cmdFields w).zero = 0
  · rw [decode_of_zero_eq hz]
    cases ho : opInstr (cmdFields w).op with
    | none => simpa [hz] using fun h : (cmdFields w).op = op => h ▸ ho
    | some i =>
      have hne : (cmdFields w).op = op → opInstr op ≠ none := by
        rintro rfl
        simp [ho]
      simpa [hz] using hne
  · rw [decode_of_zero_ne hz]
    exact iff_of_false nofun fun h => hz h.1

theorem decode_encode (i : Instr) : decode (encode i) = .ok i := (decode_eq_ok_iff _ i).mpr rfl

/-- Settles O1: a word decodes to a command exactly when it is the command's word, and each refusal is a condition on the
word's two fields. -/
theorem decodeEncodeAgree : Obligations.DecodeEncodeAgree :=
  ⟨decode_encode, fun w i => (decode_eq_ok_iff w i).mp, decode_eq_zeroFieldSet_iff, decode_eq_reservedOpcode_iff⟩

/-- Settles O2: the six words are the encodings of the commands, and the fields of the others are refused. -/
theorem commandWordsDecode : Obligations.CommandWordsDecode :=
  have reserved (w : Word) (hz : (cmdFields w).zero = 0) (ho : (cmdFields w).op.toNat < 1 ∨ 6 < (cmdFields w).op.toNat) :
      decode w = .error (.reservedOpcode (cmdFields w).op) := (decode_eq_reservedOpcode_iff w _).mpr ⟨hz, rfl, ho⟩
  ⟨decode_encode .clear, decode_encode .encode, decode_encode .hmac, decode_encode .trunc, decode_encode .format,
    decode_encode .hotp, reserved 0x0 rfl (by decide), reserved 0x7 rfl (by decide), reserved 0xF rfl (by decide),
    decode_of_zero_ne (by decide), decode_of_zero_ne (by decide)⟩

/-- The words of the commands are 1 to 6 (R62). -/
theorem encode_toNat_bounds (i : Instr) : 1 ≤ (encode i).toNat ∧ (encode i).toNat ≤ 6 := by cases i <;> decide

theorem decode_of_out_of_range {w : Word} (hw : w.toNat < 1 ∨ 6 < w.toNat) : ∃ e, decode w = .error e := by
  cases hd : decode w with
  | error e => exact ⟨e, rfl⟩
  | ok i =>
    obtain rfl := (decode_eq_ok_iff w i).mp hd
    have := encode_toNat_bounds i
    omega

end Sys2Proof
end

section
/-! What a write to `CMD` does (R44, R61, R64), and what each command leaves unchanged (R62). -/

namespace Sys2Proof.Machine

/-- Settles O3: the address is `CMD`'s, so the step is the command the word decodes to, or IllegalCommand. -/
theorem cmdWriteRunsDecodedCommand : Obligations.CmdWriteRunsDecodedCommand := by
  intro s w rest hin
  have hs := step_cmd s _ rest _ w hin rfl ((regAt_eq_cmd_iff _).mpr rfl)
  constructor
  · intro i hd
    rwa [hd] at hs
  · intro e hd
    rwa [hd] at hs

/-- Settles O4: a word that is no command's word decodes to none. -/
theorem illegalWordOnlySetsErr : Obligations.IllegalWordOnlySetsErr := by
  intro s w rest hin hw
  obtain ⟨e, hd⟩ := decode_of_out_of_range hw
  obtain ⟨-, refused⟩ := cmdWriteRunsDecodedCommand s w rest hin
  exact ⟨refused e hd, rfl⟩

/-- The two ways `HMAC` ends: an error with the digest cleared, or a digest (R127). -/
theorem execHmac_ends {s t : State} (h : execHmac s = .next t) :
    (∃ e, t = setErr e (clearDigest (setErr .none s))) ∨ ∃ d, t = putDigest d (clearDigest (setErr .none s)) := by
  cases ha : algOf s.alg with
  | none =>
    rw [execHmac_unsupported s ha] at h
    cases h
    exact .inl ⟨_, rfl⟩
  | some a =>
    cases hk : klenOk s with
    | false =>
      rw [execHmac_tooLong s a ha hk] at h
      cases h
      exact .inl ⟨_, rfl⟩
    | true =>
      rw [execHmac_ok s a ha hk] at h
      cases h
      exact .inr ⟨_, rfl⟩

/-- The two ways `TRUNC` ends: an error with the results cleared, or a result (R142). -/
theorem execTrunc_ends {s t : State} (h : execTrunc s = .next t) :
    (∃ e, t = setErr e (clearTrunc (setErr .none s))) ∨ ∃ r, t = putTrunc r s.digits (clearTrunc (setErr .none s)) := by
  cases hd : dynTrunc s.digest s.dlen s.digits with
  | error e =>
    rw [execTrunc_error s e hd] at h
    cases h
    exact .inl ⟨e, rfl⟩
  | ok r =>
    rw [execTrunc_ok s r hd] at h
    cases h
    exact .inr ⟨r, rfl⟩

/-- The two ways `HOTP` ends, scrubbed in both: an error with no code, or a code (R160, R163). -/
theorem execHotp_ends {s t : State} (h : execHotp s = .next t) :
    (∃ e, t = setErr e (scrub (clearCode s))) ∨ ∃ c n, t = scrub (putCode c n (setErr .none s)) := by
  cases ha : algOf s.alg with
  | none =>
    rw [execHotp_unsupported s ha] at h
    cases h
    exact .inl ⟨_, rfl⟩
  | some a =>
    cases hk : klenOk s with
    | false =>
      rw [execHotp_tooLong s a ha hk] at h
      cases h
      exact .inl ⟨_, rfl⟩
    | true =>
      cases hg : digitsOk s.digits with
      | false =>
        rw [execHotp_badDigits s a ha hk hg] at h
        cases h
        exact .inl ⟨_, rfl⟩
      | true =>
        rw [execHotp_ok s a ha hk hg] at h
        cases h
        exact .inr ⟨_, _, rfl⟩

/-- Settles O6: each way a command ends is a chain of updates of the registers it writes, and an update leaves every other
field. -/
theorem commandsWriteOnlyTheirRegisters : Obligations.CommandsWriteOnlyTheirRegisters := by
  intro i s t h
  cases i with
  | clear =>
    cases h
    simp
  | encode =>
    cases h.symm.trans (execEncode_eq s)
    simp
  | hmac => obtain ⟨e, rfl⟩ | ⟨d, rfl⟩ := execHmac_ends h <;> simp
  | trunc => obtain ⟨e, rfl⟩ | ⟨r, rfl⟩ := execTrunc_ends h <;> simp
  | format =>
    cases h.symm.trans (execFormat_eq s)
    simp
  | hotp => obtain ⟨e, rfl⟩ | ⟨c, n, rfl⟩ := execHotp_ends h <;> simp

end Sys2Proof.Machine
end

section
/-! The script `LDKEY` (R46, R68): a byte sequence packed into words and written word by word to a buffer. -/

namespace Sys2Proof.Machine

theorem laneByte_bufWord {n : Nat} (b : Buf n) (w j : Nat) (hj : j < 4) :
    laneByte (bufWord b w) j = bufByte b (4 * w + j) := by
  apply BitVec.eq_of_toNat_eq
  rw [laneByte, BitVec.extractLsb'_toNat, Nat.shiftRight_eq_div_pow, bufWord_toNat]
  have h0 := (bufByte b (4 * w)).isLt
  have h1 := (bufByte b (4 * w + 1)).isLt
  have h2 := (bufByte b (4 * w + 2)).isLt
  have h3 := (bufByte b (4 * w + 3)).isLt
  obtain rfl | hj0 := Nat.eq_zero_or_pos j
  · simp only [Nat.mul_zero, Nat.pow_zero, Nat.add_zero]
    omega
  · interval_cases j <;> omega

/-- Lane `j` of a packed word is the byte it packs, zero where the sequence has ended (R68). -/
theorem laneByte_packWord (l : List Byte) (w j : Nat) (hj : j < 4) : laneByte (packWord l w) j = l.getD (4 * w + j) 0 := by
  rw [packWord, laneByte_bufWord _ _ _ hj, bufByte_bufOf, if_pos (by omega)]
  simp [List.getD]

/-- A buffer after the first `m` words of a byte sequence have been written to it (R46, R68). -/
def loadWords {n : Nat} (l : List Byte) : Nat → Buf n → Buf n
  | 0, b => b
  | m + 1, b => bufSetWord (loadWords l m b) m (packWord l m)

theorem bufByte_loadWords {n : Nat} (l : List Byte) (m : Nat) (b : Buf n) (hm : 4 * m ≤ n) (i : Nat) :
    bufByte (loadWords l m b) i = if i < 4 * m then l.getD i 0 else bufByte b i := by
  induction m with
  | zero => simp [loadWords]
  | succ m ih =>
    rw [loadWords, bufByte_setWord _ _ _ _ (by omega)]
    by_cases hi : i / 4 = m
    · rw [if_pos hi, if_pos (by omega), laneByte_packWord _ _ _ (by omega), show 4 * m + i % 4 = i by omega]
    · rw [if_neg hi, ih (by omega)]
      by_cases hlt : i < 4 * m
      · rw [if_pos hlt, if_pos (by omega)]
      · rw [if_neg hlt, if_neg (by omega)]

/-- A buffer whose bytes begin with those of a sequence lists the sequence first. -/
theorem take_toList_of_bufByte {n : Nat} {b : Buf n} {l : List Byte} (hl : l.length ≤ n)
    (h : ∀ i < l.length, bufByte b i = l.getD i 0) : b.toList.take l.length = l := by
  apply List.ext_getElem
  · simpa using hl
  · intro i _ hi
    have := h i hi
    rw [bufByte_of_lt b i (by omega), List.getD_eq_getElem _ _ hi] at this
    simpa using this

/-- The lines that write the key words of `LDKEY` fill `KEY` and touch nothing else but the port's output (R68). -/
theorem runScript_keyWords (k : List Byte) (m : Nat) (hm : m ≤ 64) (s : State) :
    ∃ o, runScript ((List.range m).map fun w => wrReg (.keyW w) (packWord k w)) s =
      ({ s with key := loadWords k m s.key, out := o }, []) := by
  induction m with
  | zero => exact ⟨s.out, rfl⟩
  | succ m ih =>
    obtain ⟨o, ho⟩ := ih (by omega)
    have hr : regAt (regAddr (.keyW m)) = .keyW m := regAt_keyW ⟨m, by omega⟩
    rw [List.range_succ, List.map_append, runScript_append, ho]
    simp only [List.map_cons, List.map_nil, runScript, wrReg]
    rw [runLine_wr _ _ _ (by simp [hr]), hr]
    exact ⟨.ackWrite, rfl⟩

/-- The whole of `LDKEY` (R68). -/
theorem runScript_ldkey (k : List Byte) (hk : k.length ≤ 256) (s : State) :
    runScript (ldkey k) s =
      ({ s with key := loadWords k (wordCount k) s.key, klen := BitVec.ofNat 32 k.length, out := .ackWrite }, []) := by
  obtain ⟨o, ho⟩ := runScript_keyWords k (wordCount k) (by unfold wordCount; omega) s
  have hr : regAt (regAddr .klen) = .klen := by decide
  rw [ldkey, runScript_append, ho]
  simp only [runScript, wrReg]
  rw [runLine_wr _ _ _ (by simp [hr]), hr]
  rfl

/-- Settles O52: the key words hold the key and zeros to the end of the last one, by the bytes of a loaded buffer. -/
theorem ldkeyLoadsKey : Obligations.LdkeyLoadsKey := by
  intro k s hk
  have hbyte := bufByte_loadWords k (wordCount k) s.key (show 4 * ((k.length + 3) / 4) ≤ 256 by omega)
  have hlen : (BitVec.ofNat 32 k.length).toNat = k.length := (BitVec.toNat_ofNat _ _).trans (Nat.mod_eq_of_lt (by omega))
  unfold wordCount at hbyte
  refine ⟨_, runScript_ldkey k hk s, hlen, ?_, fun i hi hlt => ?_, fun i hi => ?_, rfl⟩
  · rw [hlen]
    exact take_toList_of_bufByte hk fun i hi => (hbyte i).trans (if_pos (by omega))
  · exact ((hbyte i).trans (if_pos hlt)).trans (List.getD_eq_default _ _ hi)
  · exact (hbyte i).trans (if_neg (by omega))

end Sys2Proof.Machine
end

section
/-! The counter encoder (R80, R81) and `ENCODE` (R82). The encoding is `toBE` of eight bytes, so what a message and a counter
say of each other is what `BE` and `toBE` do. -/

namespace Sys2Proof.Machine

theorem encodeCounter_getD (c : DWord) (i : Nat) (hi : i < 8) :
    (encodeCounter c).getD i 0 = c.extractLsb' (56 - 8 * i) 8 := by
  simp [encodeCounter, List.getD, hi]

/-- The slice of byte `i` is the quotient by the weight of the bytes below it (R7, R80). -/
theorem encodeCounter_eq_toBE (c : DWord) : encodeCounter c = toBE 8 c.toNat := by
  refine List.map_congr_left fun i hi => ?_
  have hi : i < 8 := List.mem_range.mp hi
  have hpow : 2 ^ (56 - 8 * i) = 256 ^ (8 - 1 - i) := by
    rw [show 56 - 8 * i = 8 * (8 - 1 - i) by omega, Nat.pow_mul]
  rw [BitVec.extractLsb', Nat.shiftRight_eq_div_pow, hpow]

theorem beNat_encodeCounter (c : DWord) : beNat (encodeCounter c) = c.toNat := by
  rw [encodeCounter_eq_toBE, beNat_toBE 8 _ c.isLt]

/-- The counter of a message of eight bytes is its `BE` value (R81). -/
theorem encodeCounter_ofNat_beNat {m : List Byte} (hm : m.length = 8) :
    encodeCounter (BitVec.ofNat 64 (beNat m)) = m := by
  have hlt : beNat m < 2 ^ 64 := by simpa [hm] using beNat_lt m
  rw [encodeCounter_eq_toBE, BitVec.toNat_ofNat, Nat.mod_eq_of_lt hlt, ← hm, toBE_beNat]

/-- Settles O10: each byte is a slice by definition, and the eight are `toBE`, which `BE` undoes. -/
theorem encodeCounterBytes : Obligations.EncodeCounterBytes := fun c =>
  ⟨encodeCounter_length c, encodeCounter_getD c, encodeCounter_eq_toBE c, beNat_encodeCounter c⟩

theorem encodeCounter_injective : Function.Injective encodeCounter := fun c c' h =>
  BitVec.eq_of_toNat_eq <| by rw [← beNat_encodeCounter c, h, beNat_encodeCounter]

/-- Settles O11: `BE` recovers the counter from its encoding, and the message from the counter. -/
theorem encodeCounterBijection : Obligations.EncodeCounterBijection :=
  ⟨fun _ _ h => encodeCounter_injective h, fun _ hm =>
    ⟨_, encodeCounter_ofNat_beNat hm, fun _ h =>
      encodeCounter_injective (h.trans (encodeCounter_ofNat_beNat hm).symm)⟩⟩

theorem bufByte_encodeCounter (c : DWord) (i : Nat) (hi : i < 8) :
    bufByte (bufOf 8 (encodeCounter c)) i = c.extractLsb' (56 - 8 * i) 8 := by
  rw [bufByte_bufOf, if_pos hi, encodeCounter_getD c i hi]

/-- Settles O12: `ENCODE` ends in one way, with `ERR` cleared and the encoding in `MSG`; `COUNTER` is as before, so the
second `ENCODE` writes the same again. -/
theorem encodeCommand : Obligations.EncodeCommand := by
  intro s
  refine ⟨_, execEncode_eq s, rfl, bufByte_encodeCounter s.counter, execEncode_eq _, fun hc => ?_⟩
  rw [putMsg_msg, hc]
  decide

end Sys2Proof.Machine
end

section
/-! The padding and the blocks of a message (R91, R101, R111), and SHA-1 (R92 to R95): the message schedule, the eighty
rounds and the bytes of the result. -/

namespace Sys2Proof.Machine

/-- What follows the padding's zero bytes is the length field (R91, R111). -/
theorem padMsg_drop (blk lenBytes : Nat) (m : List Byte) :
    (padMsg blk lenBytes m).drop (m.length + 1 + padZeros blk lenBytes m.length) = toBE lenBytes (8 * m.length) := by
  rw [padMsg_eq]
  exact List.drop_left' (by simp; omega)

/-- Settles O13: `padZeros` many zero bytes fill whole blocks and no fewer do, and the message is the pieces it is cut
into. -/
theorem paddingFillsWholeBlocks : Obligations.PaddingFillsWholeBlocks := by
  intro blk len m hparams
  have hblk : 0 < blk := by omega
  obtain ⟨hwhole, hjoin⟩ := msgBlocks_spec blk len m hblk
  refine ⟨padZeros blk len m.length, padMsg_eq blk len m, padZeros_fills blk len m.length hblk, fun hfit => ?_,
    fun z hz hfill => ?_, ?_, hwhole, hjoin⟩
  · rw [padMsg_drop, beNat_toBE len _ hfit]
  · exact absurd (padZeros_least blk len m.length z hfill) (Nat.not_le.mpr hz)
  · rw [msgBlocks_length, padMsg_length]

/-- A 32-bit word of a block is four of its bytes (R91, R101). -/
theorem blockWords_getD_32 {b : List Byte} (hb : b.length = 64) {t : Nat} (ht : t < 16) :
    (blockWords 32 b).getD t 0 =
      BitVec.ofNat 32 (beNat [b.getD (4 * t) 0, b.getD (4 * t + 1) 0, b.getD (4 * t + 2) 0, b.getD (4 * t + 3) 0]) :=
  blockWords_getD 32 t b ht hb.ge

/-- Settles O14: the first sixteen words are the block's, and `sha1Next` counts the later ones back from `t`. -/
theorem sha1ScheduleRecurrence : Obligations.Sha1ScheduleRecurrence := by
  refine fun b hb => ⟨schedule_length _ _ b, fun t ht => ?_, fun t hlo hhi => ?_⟩
  · rw [schedule_getD_low _ _ t b ht, blockWords_getD_32 hb ht]
  · obtain ⟨ws, hw, hback⟩ := schedule_getD_high sha1Next 64 t b hlo hhi
    rw [hw, sha1Next, hback 3 (by decide) (by decide), hback 8 (by decide) (by decide),
      hback 14 (by decide) (by decide), hback 16 (by decide) (by decide)]

/-- `f_t` with its two ranges of parity as one (R93). -/
theorem sha1F_eq (t : Nat) (x y z : Word) :
    sha1F t x y z = if t < 20 then ch x y z else if 40 ≤ t ∧ t < 60 then maj x y z else parity x y z := by
  by_cases h40 : t < 40
  · simp [sha1F, h40, show ¬40 ≤ t by omega]
  · simp [sha1F, h40, show 40 ≤ t by omega]

/-- The digest is the five chaining words, each as four bytes (R95). -/
theorem sha1_eq (m : List Byte) {h : Sha1Words} (hh : (msgBlocks 64 8 m).foldl sha1Block sha1Init = h) :
    sha1 m = toBE 4 h.a.toNat ++ toBE 4 h.b.toNat ++ toBE 4 h.c.toNat ++ toBE 4 h.d.toNat ++ toBE 4 h.e.toNat := by
  simp [sha1, hh]

/-- Settles O57: the working words are the fields of the states the eighty rounds go through, and the chaining values those
of the fold over the blocks. -/
theorem sha1Compression : Obligations.Sha1Compression := by
  constructor
  · intro h b
    obtain ⟨R, h0, hround, hlast⟩ := sha1Rounds_trace 0 (schedule sha1Next 64 b) h
    rw [schedule_length] at hround hlast
    refine ⟨fun t => (R t).a, fun t => (R t).b, fun t => (R t).c, fun t => (R t).d, fun t => (R t).e, ?_,
      fun t ht => ?_, ?_⟩
    · simp [h0]
    · have hstep := hround t ht
      rw [Nat.zero_add] at hstep
      simp only [hstep, sha1Round, sha1F_eq, sha1K, ch, maj, parity, and_self]
    · simp only [sha1Block, hlast]
  · intro m
    obtain ⟨H, h0, hblock, hlast⟩ := foldl_trace sha1Block [] (msgBlocks 64 8 m) sha1Init
    exact ⟨_, H, rfl, h0, hblock, sha1_eq m hlast⟩

end Sys2Proof.Machine
end

section
/-! SHA-256 and SHA-512 (R100 to R115): their constants and functions, the message schedule, the rounds and the bytes of the
result. -/

namespace Sys2Proof.Machine

/-- The table is finite, and the whole part of each root is found below its prime; so for the three tables after it (R102). -/
theorem sha256K_roots : ∀ i, i < 64 → IsRootFraction 3 32 (firstPrimes.getD i 0) (sha256K.getD i 0).toNat := by
  unfold IsRootFraction
  decide +kernel

theorem sha512K_roots : ∀ i, i < 80 → IsRootFraction 3 64 (firstPrimes.getD i 0) (sha512K.getD i 0).toNat := by
  unfold IsRootFraction
  decide +kernel

/-- The eight words of a chaining value, `H0` to `H7`, as a table. -/
def Sha2Words.toList {w : Nat} (v : Sha2Words w) : List (BitVec w) := [v.a, v.b, v.c, v.d, v.e, v.f, v.g, v.h]

theorem sha256Init_roots :
    ∀ i, i < 8 → IsRootFraction 2 32 (firstPrimes.getD i 0) (sha256Init.toList.getD i 0).toNat := by
  unfold IsRootFraction
  decide +kernel

theorem sha512Init_roots :
    ∀ i, i < 8 → IsRootFraction 2 64 (firstPrimes.getD i 0) (sha512Init.toList.getD i 0).toNat := by
  unfold IsRootFraction
  decide +kernel

/-- Settles O58: the functions are written as the rules write them, each table is evaluated against the roots of its primes,
and an initial chaining value is the list of its words. -/
theorem sha2Parameters : Obligations.Sha2Parameters :=
  ⟨fun _ => ⟨rfl, rfl, rfl, rfl⟩, fun _ => ⟨rfl, rfl, rfl, rfl⟩, rfl, rfl, sha256K_roots, sha512K_roots,
    ⟨sha256Init.toList, rfl, rfl, sha256Init_roots⟩, ⟨sha512Init.toList, rfl, rfl, sha512Init_roots⟩⟩

/-- A 64-bit word of a block is eight of its bytes (R111). -/
theorem blockWords_getD_64 {b : List Byte} (hb : b.length = 128) {t : Nat} (ht : t < 16) :
    (blockWords 64 b).getD t 0 =
      BitVec.ofNat 64 (beNat [b.getD (8 * t) 0, b.getD (8 * t + 1) 0, b.getD (8 * t + 2) 0, b.getD (8 * t + 3) 0,
        b.getD (8 * t + 4) 0, b.getD (8 * t + 5) 0, b.getD (8 * t + 6) 0, b.getD (8 * t + 7) 0]) :=
  blockWords_getD 64 t b ht hb.ge

/-- Settles O15: the first sixteen words are the block's, and `sha2Next` counts the later ones back from `t`. -/
theorem sha2ScheduleRecurrence : Obligations.Sha2ScheduleRecurrence := by
  refine ⟨fun w n p b => ⟨schedule_length _ n b, fun t ht => schedule_getD_low _ n t b ht, fun t hlo hhi => ?_⟩,
    fun b hb t => blockWords_getD_32 hb, fun b hb t => blockWords_getD_64 hb⟩
  obtain ⟨ws, hw, hback⟩ := schedule_getD_high (sha2Next p) n t b hlo hhi
  rw [hw, sha2Next, hback 2 (by decide) (by decide), hback 7 (by decide) (by decide),
    hback 15 (by decide) (by decide), hback 16 (by decide) (by decide)]

/-- The hash is the eight chaining words, each as `w / 8` bytes (R105, R115). -/
theorem sha2_eq {w : Nat} (p : Sha2 w) (blk len : Nat) (m : List Byte) {v : Sha2Words w}
    (hv : (msgBlocks blk len m).foldl (sha2Block p) p.init = v) :
    sha2 p blk len m = toBE (w / 8) v.a.toNat ++ toBE (w / 8) v.b.toNat ++ toBE (w / 8) v.c.toNat ++
      toBE (w / 8) v.d.toNat ++ toBE (w / 8) v.e.toNat ++ toBE (w / 8) v.f.toNat ++ toBE (w / 8) v.g.toNat ++
      toBE (w / 8) v.h.toNat := by
  simp [sha2, hv]

/-- Settles O59: the working words are the fields of the states the rounds go through, and the chaining values those of the
fold over the blocks. -/
theorem sha2Compression : Obligations.Sha2Compression := by
  refine ⟨fun w p v b hks => ?_, fun w blk len p m => ?_, fun m => ⟨rfl, rfl⟩⟩
  · have hlen : p.ks.length = (schedule (sha2Next p) (p.ks.length - 16) b).length := by
      rw [schedule_length]
      omega
    obtain ⟨R, h0, hround, hlast⟩ := sha2Rounds_trace p p.ks _ v hlen
    refine ⟨fun t => (R t).a, fun t => (R t).b, fun t => (R t).c, fun t => (R t).d, fun t => (R t).e,
      fun t => (R t).f, fun t => (R t).g, fun t => (R t).h, ?_, fun t ht => ⟨_, _, rfl, rfl, ?_⟩, ?_⟩
    · simp [h0]
    · simp only [hround t ht, sha2Round, ch, maj, and_self]
    · simp only [sha2Block, hlast]
  · obtain ⟨V, h0, hblock, hlast⟩ := foldl_trace (sha2Block p) [] (msgBlocks blk len m) p.init
    exact ⟨_, V, rfl, h0, hblock, sha2_eq p blk len m hlast⟩

end Sys2Proof.Machine
end

section
/-! The keyed hash: the blocks its hashes run over (R125), the normalised key (R122) and the construction (R121, R123). -/

namespace Sys2Proof.Machine

/-- A message takes one block more than fit whole into its bytes and the length field: the byte `80` opens a block where
those fill theirs (R91, R111, R125). -/
theorem msgBlocks_length_eq_div {blk : Nat} (hblk : 0 < blk) (lenBytes : Nat) (m : List Byte) :
    (msgBlocks blk lenBytes m).length = (m.length + lenBytes) / blk + 1 := by
  obtain ⟨q, hq⟩ := Nat.dvd_of_mod_eq_zero (padZeros_fills blk lenBytes m.length hblk)
  have hz : padZeros blk lenBytes m.length < blk := Nat.mod_lt _ hblk
  rw [msgBlocks_length, padMsg_length, hq, Nat.mul_div_cancel_left q hblk]
  cases q with
  | zero => omega
  | succ q =>
    rw [Nat.mul_succ, Nat.mul_comm] at hq
    rw [Nat.div_eq_of_lt_le (k := q) (by omega) (by rw [Nat.succ_mul]; omega)]

/-- Settles O16: each count is a quotient of the length and its length field. -/
theorem hashBlockCounts : Obligations.HashBlockCounts := by
  have h64 := msgBlocks_length_eq_div (show 0 < 64 by decide) 8
  have h128 := msgBlocks_length_eq_div (show 0 < 128 by decide) 16
  refine ⟨fun m hm => ?_, fun m hm => ?_, fun m hm => ?_, fun k hlo hhi => ?_, fun k hlo hhi => ?_⟩
  · rw [h64, hm]
  · rw [h64]
    omega
  · rw [h128]
    omega
  · rw [h64]
    omega
  · rw [h128]
    omega

/-- A key above a block is hashed (R122). -/
theorem normKey_of_lt {a : HashAlg} {k : List Byte} (h : blockSize a < k.length) :
    normKey a k = hashFn a k ++ List.replicate (blockSize a - digestLen a) 0 := by
  simp [normKey, h]

/-- A key of at most a block is used as it is (R122). -/
theorem normKey_of_le {a : HashAlg} {k : List Byte} (h : k.length ≤ blockSize a) :
    normKey a k = k ++ List.replicate (blockSize a - k.length) 0 := by
  simp [normKey, Nat.not_lt.mpr h]

/-- Zero bytes at the end of a key that stays within a block are those the normalisation adds (R122). -/
theorem normKey_append_zeros {a : HashAlg} {k : List Byte} {n : Nat} (h : k.length + n ≤ blockSize a) :
    normKey a (k ++ List.replicate n 0) = normKey a k := by
  have hn : (k ++ List.replicate n (0 : Byte)).length = k.length + n := by simp
  rw [normKey_of_le (hn.trans_le h), normKey_of_le (by omega), hn, List.append_assoc, List.replicate_append_replicate]
  congr 2
  omega

/-- A keyed hash reads its key through the normalisation alone (R123). -/
theorem hmac_congr_normKey {a : HashAlg} {k k' : List Byte} (h : normKey a k = normKey a k') (m : List Byte) :
    hmac a k m = hmac a k' m := by
  simp only [hmac, h]

/-- Settles O17: the two branches of the normalisation, and keys that differ by trailing zeros have one normal form. -/
theorem keyNormalisation : Obligations.KeyNormalisation := fun a k =>
  ⟨normKey_length a k, normKey_of_lt, normKey_of_le, fun _ m h => hmac_congr_normKey (normKey_append_zeros h) m⟩

/-- The normalised key with every byte XORed with `c`: `ipad` and `opad` for the bytes `36` and `5C` (R123). -/
def keyPad (c : Byte) (a : HashAlg) (k : List Byte) : List Byte := (normKey a k).map (· ^^^ c)

@[simp] theorem keyPad_length (c : Byte) (a : HashAlg) (k : List Byte) : (keyPad c a k).length = blockSize a := by
  simp [keyPad]

theorem keyPad_getD (c : Byte) (a : HashAlg) (k : List Byte) (i : Nat) (hi : i < blockSize a) :
    (keyPad c a k).getD i 0 = (normKey a k).getD i 0 ^^^ c := by
  simp [keyPad, List.getD, hi]

theorem hmac_eq_keyPad (a : HashAlg) (k m : List Byte) :
    hmac a k m = hashFn a (keyPad 0x5C a k ++ hashFn a (keyPad 0x36 a k ++ m)) := rfl

/-- Settles O18: the two pads are `keyPad`, and the parameters of each tag stand in the tables of R65. -/
theorem hmacConstruction : Obligations.HmacConstruction :=
  ⟨fun a k m => ⟨keyPad 0x36 a k, keyPad 0x5C a k, keyPad_length _ a k, keyPad_length _ a k, keyPad_getD _ a k,
    keyPad_getD _ a k, hmac_eq_keyPad a k m, hmac_length a k m⟩,
    ⟨rfl, rfl, rfl, rfl⟩, ⟨rfl, rfl, rfl, rfl⟩, ⟨rfl, rfl, rfl, rfl⟩⟩

end Sys2Proof.Machine
end

section
/-! The command `HMAC` (R127): what it writes, as a function of the operands it reads. -/

namespace Sys2Proof.Machine

/-- The three outputs of `HMAC` (R127). -/
structure HmacOutputs where
  err    : ErrCode
  digest : Buf Config.digestMax
  dlen   : Word

/-- The outputs under an error: no digest (R127). -/
def hmacFailed (e : ErrCode) : HmacOutputs := { err := e, digest := bufZero _, dlen := 0 }

/-- The outputs for the tag, the key length, the key and the message, with the two tests in their order (R127). -/
def hmacOutputs (tag klen : Word) (k m : List Byte) : HmacOutputs :=
  match algOf tag with
  | none => hmacFailed .unsupportedAlgorithm
  | some a =>
    if klen.toNat ≤ 256 then
      { err := .none, digest := bufOf _ (hmac a k m), dlen := BitVec.ofNat 32 (digestLen a) }
    else hmacFailed .keyTooLong

section
variable {tag klen : Word} {a : HashAlg} (k m : List Byte)

theorem hmacOutputs_unsupported (ha : algOf tag = none) :
    hmacOutputs tag klen k m = hmacFailed .unsupportedAlgorithm := by
  simp [hmacOutputs, ha]

theorem hmacOutputs_tooLong (ha : algOf tag = some a) (hk : 256 < klen.toNat) :
    hmacOutputs tag klen k m = hmacFailed .keyTooLong := by
  simp [hmacOutputs, ha, hk]

theorem hmacOutputs_ok (ha : algOf tag = some a) (hk : klen.toNat ≤ 256) :
    hmacOutputs tag klen k m =
      { err := .none, digest := bufOf _ (hmac a k m), dlen := BitVec.ofNat 32 (digestLen a) } := by
  simp [hmacOutputs, ha, hk]

end

/-- The state with the outputs of `HMAC` loaded (R127). -/
def putHmacOutputs (o : HmacOutputs) (s : State) : State := { s with err := o.err, digest := o.digest, dlen := o.dlen }

/-- `HMAC` loads its outputs and does nothing else, whichever way it ends (R127). -/
theorem execHmac_eq (s : State) :
    execHmac s = .next (putHmacOutputs (hmacOutputs s.alg s.klen (keyBytes s) (msgBytes s)) s) := by
  cases ha : algOf s.alg with
  | none =>
    rw [execHmac_unsupported s ha, hmacOutputs_unsupported _ _ ha]
    rfl
  | some a =>
    by_cases hk : s.klen.toNat ≤ 256
    · rw [execHmac_ok s a ha ((klenOk_iff s).mpr hk), hmacOutputs_ok _ _ ha hk,
        ← hmac_length a (keyBytes s) (msgBytes s)]
      rfl
    · have hk' : klenOk s = false := Bool.eq_false_iff.mpr (mt (klenOk_iff s).mp hk)
      rw [execHmac_tooLong s a ha hk', hmacOutputs_tooLong _ _ ha (Nat.lt_of_not_le hk)]
      rfl

/-- A tag that is not unsupported selects an algorithm (R65). -/
theorem exists_algOf_of_supported {s : State} (h : ¬UnsupportedTag s) : ∃ a, algOf s.alg = some a :=
  Option.ne_none_iff_exists'.mp (mt (algOf_eq_none_iff s.alg).mp h)

/-- `L` fits the 32 bits of `DLEN` (R21, R121). -/
theorem toNat_ofNat_digestLen (a : HashAlg) : (BitVec.ofNat 32 (digestLen a)).toNat = digestLen a := by
  cases a <;> rfl

/-- The bytes of `DIGEST` that holds a keyed hash: its `L` bytes, then zeros (R28, R127). -/
theorem bufByte_bufOf_hmac (a : HashAlg) (k m : List Byte) (i : Nat) (hi : i < 64) :
    bufByte (bufOf 64 (hmac a k m)) i = if i < digestLen a then (hmac a k m).getD i 0 else 0 := by
  rw [bufByte_bufOf, if_pos hi]
  split
  · rfl
  · exact List.getD_eq_default _ _ (by rw [hmac_length]; omega)

/-- Settles O19: the next state is `s` with the outputs of its operands loaded; they are not operands, so a second `HMAC`
loads the same; and each clause is one case of `hmacOutputs`. -/
theorem hmacCommand : Obligations.HmacCommand := by
  refine fun s => ⟨_, execHmac_eq s, rfl, execHmac_eq _, fun hu => ?_, fun hs hk => ?_, fun a ha hk => ?_⟩
  · rw [hmacOutputs_unsupported _ _ ((algOf_eq_none_iff s.alg).mpr hu)]
    exact ⟨rfl, rfl, rfl⟩
  · obtain ⟨a, ha⟩ := exists_algOf_of_supported hs
    rw [hmacOutputs_tooLong _ _ ha hk]
    exact ⟨rfl, rfl, rfl⟩
  · rw [hmacOutputs_ok _ _ ((algOf_eq_some_iff s.alg a).mpr ha) hk]
    exact ⟨rfl, toNat_ofNat_digestLen a, bufByte_bufOf_hmac a _ _⟩

/-- Settles O20: the successful case of `hmacOutputs`. -/
theorem hmacCompletes : Obligations.HmacCompletes := by
  intro s a ha hk
  refine (execHmac_eq s).trans ?_
  rw [hmacOutputs_ok _ _ ((algOf_eq_some_iff s.alg a).mpr ha) hk]
  rfl

/-- Settles O21: the operands of `hmacOutputs` are all that `HMAC` reads for its outputs, and the two states agree on
them. -/
theorem hmacReadsOnlyItsOperands : Obligations.HmacReadsOnlyItsOperands := by
  intro s s' halg hklen hmsg hkey
  have hkey' : keyBytes s' = keyBytes s := by rw [keyBytes, hklen, hkey, keyBytes]
  have hmsg' : msgBytes s' = msgBytes s := by rw [msgBytes, hmsg, msgBytes]
  have hs' := execHmac_eq s'
  rw [halg, hklen, hkey', hmsg'] at hs'
  exact ⟨_, _, execHmac_eq s, hs', rfl, rfl, rfl⟩

end Sys2Proof.Machine
end

section
/-! Dynamic truncation (R135 to R141) and the command `TRUNC` (R142): its three ways to end by the conditions of R142, and
what follows for its results (R143), its dead error (R145) and its operands (R141, R146). -/

namespace Sys2Proof.Machine

theorem digestLenOk_iff_eq (n : Word) : digestLenOk n = true ↔ n = 20 ∨ n = 32 ∨ n = 64 := by
  simp [digestLenOk_iff, ← BitVec.toNat_inj]

theorem digestLenOk_eq_false_iff (s : State) : digestLenOk s.dlen = false ↔ BadDigestLength s := by
  rw [← Bool.not_eq_true, digestLenOk_iff_eq, not_or, not_or, BadDigestLength]

theorem digitsOk_eq_false_iff (s : State) : digitsOk s.digits = false ↔ BadDigits s := by
  rw [← Bool.not_eq_true, digitsOk_iff, BadDigits]
  omega

theorem digestLenOk_of_not_bad {s : State} (h : ¬BadDigestLength s) : digestLenOk s.dlen = true :=
  Bool.eq_true_of_not_eq_false (mt (digestLenOk_eq_false_iff s).mp h)

theorem digitsOk_of_not_bad {s : State} (h : ¬BadDigits s) : digitsOk s.digits = true :=
  Bool.eq_true_of_not_eq_false (mt (digitsOk_eq_false_iff s).mp h)

/-- What a successful `TRUNC` computes: the offset, the masked window there and its remainder (R136 to R139). -/
def truncResult (d : Buf Config.digestMax) (n g : Word) : TruncResult :=
  let o := truncOffset d n.toNat
  let p := truncMask (truncWindow d o.toNat)
  { offset := o, p := p, code := truncReduce p g.toNat }

/-- `P` is the big-endian window with its top bit cleared (R137, R138). -/
theorem truncResult_p_toNat (d : Buf Config.digestMax) (n g : Word) :
    let o := (truncResult d n g).offset.toNat
    (truncResult d n g).p.toNat = ((bufByte d o).toNat * 2 ^ 24 + (bufByte d (o + 1)).toNat * 2 ^ 16 +
      (bufByte d (o + 2)).toNat * 2 ^ 8 + (bufByte d (o + 3)).toNat) % 2 ^ 31 := by
  simp only [truncResult, truncMask_toNat, truncWindow_toNat]

theorem execTrunc_badLength {s : State} (hn : BadDigestLength s) :
    execTrunc s = .next (setErr .invalidDigestLength (clearTrunc s)) :=
  execTrunc_error s _ (dynTrunc_badLength _ _ _ ((digestLenOk_eq_false_iff s).mpr hn))

theorem execTrunc_badDigits {s : State} (hn : ¬BadDigestLength s) (hg : BadDigits s) :
    execTrunc s = .next (setErr .invalidDigits (clearTrunc s)) :=
  execTrunc_error s _ (dynTrunc_badDigits _ _ _ (digestLenOk_of_not_bad hn) ((digitsOk_eq_false_iff s).mpr hg))

theorem execTrunc_good {s : State} (hn : ¬BadDigestLength s) (hg : ¬BadDigits s) :
    execTrunc s = .next (putTrunc (truncResult s.digest s.dlen s.digits) s.digits (setErr .none s)) :=
  execTrunc_ok s _ (dynTrunc_ok _ _ _ (digestLenOk_of_not_bad hn) (digitsOk_of_not_bad hg))

/-- Settles O22: each of the two ways `TRUNC` ends is an update of `ERR` and the four results, and each clause is one way by
its conditions. -/
theorem truncCommand : Obligations.TruncCommand := by
  intro s
  obtain ⟨t, ht⟩ := exec_has_next .trunc s
  refine ⟨t, ht, ?_, fun hn => ?_, fun hn hg => ?_, fun hn hg => ?_⟩
  · obtain ⟨e, rfl⟩ | ⟨r, rfl⟩ := execTrunc_ends ht <;> rfl
  · cases ht.symm.trans (execTrunc_badLength hn)
    exact ⟨rfl, rfl, rfl, rfl, rfl⟩
  · cases ht.symm.trans (execTrunc_badDigits hn hg)
    exact ⟨rfl, rfl, rfl, rfl, rfl⟩
  · cases ht.symm.trans (execTrunc_good hn hg)
    have hg' : digitsOk s.digits = true := digitsOk_of_not_bad hg
    exact ⟨rfl, truncOffset_toNat _ _, truncResult_p_toNat _ _ s.digits, truncReduce_toNat _ _ ((digitsOk_iff _).mp hg').2,
      setWidth_digits_toNat _ hg'⟩

/-- Settles O23: each way `TRUNC` ends by its conditions; the bounds are those of the fields, of the offset under a length
that passed its test, and of a remainder. -/
theorem truncResultBounds : Obligations.TruncResultBounds := by
  intro s t h
  obtain ⟨t', h', hframe, hbadLength, hbadDigits, hgood⟩ := truncCommand s
  cases h.symm.trans h'
  have hdlen : t.dlen = s.dlen := by rw [hframe]
  by_cases hn : BadDigestLength s
  · obtain ⟨he, hzero⟩ := hbadLength hn
    simp [he, hzero]
  by_cases hg : BadDigits s
  · obtain ⟨he, hzero⟩ := hbadDigits hn hg
    simp [he, hzero]
  · obtain ⟨he, ho, -, hv, hd⟩ := hgood hn hg
    have hfits := truncOffset_fits s.digest s.dlen (digestLenOk_of_not_bad hn)
    rw [truncOffset_toNat, ← ho, ← hdlen] at hfits
    obtain ⟨hlo, hhi⟩ := (digitsOk_iff _).mp (digitsOk_of_not_bad hg)
    rw [← hd] at hlo hhi hv
    refine ⟨fun _ => ⟨by omega, hfits, t.bincode.isLt, hlo, hhi, hv, ?_⟩, fun hne => absurd he hne⟩
    rw [hv]
    exact Nat.mod_lt _ (Nat.pow_pos (by decide))

theorem hmacOutputs_blockErr (tag klen : Word) (k m : List Byte) : BlockErr (hmacOutputs tag klen k m).err := by
  cases ha : algOf tag with
  | none => simp [hmacOutputs_unsupported k m ha, hmacFailed]
  | some a =>
    by_cases hk : klen.toNat ≤ 256
    · simp [hmacOutputs_ok k m ha hk]
    · simp [hmacOutputs_tooLong k m ha (Nat.lt_of_not_le hk), hmacFailed]

/-- Every command, in every state, leaves an error of the block in `STATUS.ERR` (R66). -/
theorem exec_blockErr {i : Instr} {s t : State} (h : exec i s = .next t) : BlockErr t.err := by
  cases i with
  | clear | encode | format =>
    cases h
    exact blockErr_none
  | hmac =>
    cases h.symm.trans (execHmac_eq s)
    exact hmacOutputs_blockErr _ _ _ _
  | trunc =>
    by_cases hn : BadDigestLength s
    · cases h.symm.trans (execTrunc_badLength hn)
      exact blockErr_invalidDigestLength
    by_cases hg : BadDigits s
    · cases h.symm.trans (execTrunc_badDigits hn hg)
      exact blockErr_invalidDigits
    · cases h.symm.trans (execTrunc_good hn hg)
      exact blockErr_none
  | hotp => exact (execHotp_inv h).errReachable

theorem not_blockErr_truncationOutOfRange : ¬BlockErr .truncationOutOfRange := by simp [BlockErr]

theorem dynTrunc_ne_outOfRange (d : Buf Config.digestMax) (n g : Word) :
    dynTrunc d n g ≠ .error .truncationOutOfRange := by
  cases hn : digestLenOk n with
  | false => simp [dynTrunc_badLength d n g hn]
  | true =>
    cases hg : digitsOk g with
    | false => simp [dynTrunc_badDigits d n g hn hg]
    | true => simp [dynTrunc_ok d n g hn hg]

/-- Settles O24: an offset of four bits is at most 15, the least length is 20, and the error is none of the block's. -/
theorem outOfRangeNeverRaised : Obligations.OutOfRangeNeverRaised := by
  refine ⟨dynTrunc_ne_outOfRange, fun d n hn => ?_, fun i s t h he => ?_⟩
  · have ho := (truncOffset d n.toNat).isLt
    have hfit : (truncOffset d n.toNat).toNat + 4 ≤ 19 := by omega
    obtain rfl | rfl | rfl := hn <;> exact ⟨hfit, by decide, by decide⟩
  · exact not_blockErr_truncationOutOfRange (he ▸ exec_blockErr h)

/-- Dynamic truncation reads the digest below its length only: the last byte, and a window that fits (R141, R145). -/
theorem dynTrunc_congr {d d' : Buf Config.digestMax} {n : Word} (g : Word)
    (h : ∀ i, i < n.toNat → bufByte d' i = bufByte d i) : dynTrunc d' n g = dynTrunc d n g := by
  cases hn : digestLenOk n with
  | false => rw [dynTrunc_badLength d n g hn, dynTrunc_badLength d' n g hn]
  | true =>
    have hfits := truncOffset_fits d n hn
    have ho : truncOffset d' n.toNat = truncOffset d n.toNat := by
      rw [truncOffset, h _ (by omega), truncOffset]
    have hw : truncWindow d' (truncOffset d n.toNat).toNat = truncWindow d (truncOffset d n.toNat).toNat := by
      rw [truncWindow, h _ (by omega), h _ (by omega), h _ (by omega), h _ (by omega), truncWindow]
    simp only [dynTrunc, ho, hw]

/-- Settles O26: the two states get the same answer from dynamic truncation, and its answer is all that `TRUNC` loads. -/
theorem truncReadsOnlyItsOperands : Obligations.TruncReadsOnlyItsOperands := by
  intro s s' hn hg hd
  have hsame : dynTrunc s'.digest s'.dlen s'.digits = dynTrunc s.digest s.dlen s.digits := by
    rw [hn, hg, dynTrunc_congr _ hd]
  cases hr : dynTrunc s.digest s.dlen s.digits with
  | error e => exact ⟨_, _, execTrunc_error s e hr, execTrunc_error s' e (hsame.trans hr), rfl, rfl, rfl, rfl, rfl⟩
  | ok r =>
    refine ⟨_, _, execTrunc_ok s r hr, execTrunc_ok s' r (hsame.trans hr), rfl, rfl, rfl, rfl, ?_⟩
    rw [putTrunc_codedig, putTrunc_codedig, hg]

/-- Settles O25: dynamic truncation does not take `ALG`, and 32 is one of the three lengths. -/
theorem truncIgnoresAlgorithm : Obligations.TruncIgnoresAlgorithm := by
  constructor
  · intro s t a h
    cases hr : dynTrunc s.digest s.dlen s.digits with
    | error e =>
      cases h.symm.trans (execTrunc_error s e hr)
      exact execTrunc_error { s with alg := a } e hr
    | ok r =>
      cases h.symm.trans (execTrunc_ok s r hr)
      exact execTrunc_ok { s with alg := a } r hr
  · intro s hn hg
    have hlen : ¬BadDigestLength s := fun ⟨_, hne, _⟩ => hne hn
    exact ⟨_, execTrunc_good hlen hg, rfl, setWidth_digits_toNat _ (digitsOk_of_not_bad hg)⟩

end Sys2Proof.Machine
end

section
/-! The decimal string read back as its value (R150, R152), and `TRUNC` then `FORMAT` (R147). -/

namespace Sys2Proof.Machine

/-- The last `d` decimal digits of a number, least significant first, are its remainder. -/
theorem sum_decimalDigits (v d : Nat) : (∑ i ∈ Finset.range d, v / 10 ^ i % 10 * 10 ^ i) = v % 10 ^ d := by
  induction d with
  | zero => simp [Nat.mod_one]
  | succ d ih => rw [Finset.sum_range_succ, ih, Nat.mod_pow_succ, Nat.mul_comm (10 ^ d)]

/-- The string of width `d` reads back as the value modulo `10 ^ d` (R150). -/
theorem sum_decFormat (v d : Nat) :
    (∑ i ∈ Finset.range d, (((decFormat v d).getD i 0).toNat - 0x30) * 10 ^ (d - 1 - i)) = v % 10 ^ d := by
  rw [← sum_decimalDigits, ← Finset.sum_range_reflect (fun i => v / 10 ^ i % 10 * 10 ^ i)]
  refine Finset.sum_congr rfl fun i hi => ?_
  rw [decFormat_getD v d i (Finset.mem_range.mp hi), Nat.add_sub_cancel_left]

/-- The bytes of `CODE` inside the formatter's domain (R153). -/
theorem bufByte_codeBytes {v : BitVec 30} {d : BitVec 4} (h : formatDefined v d = true) {i : Nat} (hi : i < 12) :
    bufByte (codeBytes v d) i = (decFormat v.toNat d.toNat).getD i 0 := by
  rw [codeBytes_defined v d h, bufByte_bufOf, if_pos hi]

theorem sum_codeBytes {v : BitVec 30} {d : BitVec 4} (h : formatDefined v d = true) :
    (∑ i ∈ Finset.range d.toNat, ((bufByte (codeBytes v d) i).toNat - 0x30) * 10 ^ (d.toNat - 1 - i)) = v.toNat := by
  obtain ⟨hd, hv⟩ := (formatDefined_iff v d).mp h
  calc
    _ = ∑ i ∈ Finset.range d.toNat, (((decFormat v.toNat d.toNat).getD i 0).toNat - 0x30) * 10 ^ (d.toNat - 1 - i) := by
      refine Finset.sum_congr rfl fun i hi => ?_
      have := Finset.mem_range.mp hi
      rw [bufByte_codeBytes h (by omega)]
    _ = v.toNat := by rw [sum_decFormat, Nat.mod_eq_of_lt hv]

/-- Settles O30: what `TRUNC` leaves belongs together, so it is in the formatter's domain, and the string of a value in it
has its digits and reads back. -/
theorem truncThenFormatGivesCode : Obligations.TruncThenFormatGivesCode := by
  intro s hn hg
  have hg' : digitsOk s.digits = true := digitsOk_of_not_bad hg
  have hr := resultOk_truncReduce (truncResult s.digest s.dlen s.digits).p s.digits hg'
  refine ⟨_, _, execTrunc_good hn hg, execFormat_eq _, rfl, rfl, ?_⟩
  rw [← setWidth_digits_toNat _ hg']
  exact ⟨rfl, hr.fits, (codeOk_codeBytes hr.formatDefined).digit, sum_codeBytes hr.formatDefined⟩

end Sys2Proof.Machine
end

section
/-! The decimal formatter (R150, R152) and the command `FORMAT` (R153). -/

namespace Sys2Proof.Machine

/-- Every byte of the string is one of the ASCII digits (R152). -/
theorem decFormat_digit {v d : Nat} {b : Byte} (hb : b ∈ decFormat v d) : 0x30 ≤ b.toNat ∧ b.toNat ≤ 0x39 := by
  obtain ⟨i, hi, rfl⟩ := List.mem_iff_getElem.mp hb
  have hdigit := decFormat_getD v d i (by rwa [decFormat_length] at hi)
  have hlt : v / 10 ^ (d - 1 - i) % 10 < 10 := Nat.mod_lt _ (by decide)
  rw [List.getD_eq_getElem _ _ hi] at hdigit
  omega

/-- A value that fits the width is the number its string reads back as (R152). -/
theorem sum_decFormat_of_lt {v d : Nat} (hv : v < 10 ^ d) :
    (∑ i ∈ Finset.range d, (((decFormat v d).getD i 0).toNat - 0x30) * 10 ^ (d - 1 - i)) = v := by
  rw [sum_decFormat, Nat.mod_eq_of_lt hv]

/-- Two values that fit the width are equal when their strings are: each is what its string reads back as (R152). -/
theorem decFormat_inj_of_lt {v v' d : Nat} (hv : v < 10 ^ d) (hv' : v' < 10 ^ d)
    (h : decFormat v' d = decFormat v d) : v' = v := by
  rw [← sum_decFormat_of_lt hv', h, sum_decFormat_of_lt hv]

/-- Settles O27: the bytes are the decimal digits of the value, whose weighted sum is the value, so the string determines
it. -/
theorem decFormatReadsBack : Obligations.DecFormatReadsBack := fun v d hv =>
  ⟨decFormat_length v d, decFormat_getD v d, fun _ => decFormat_digit, sum_decFormat_of_lt hv,
    fun _ hv' => decFormat_inj_of_lt hv hv'⟩

/-- The value of each byte of `CODE` inside the formatter's domain: a digit below the width, zero above it (R153). -/
theorem bufByte_codeBytes_toNat {v : BitVec 30} {d : BitVec 4} (h : formatDefined v d = true) {i : Nat} (hi : i < 12) :
    (bufByte (codeBytes v d) i).toNat = if i < d.toNat then 0x30 + v.toNat / 10 ^ (d.toNat - 1 - i) % 10 else 0 := by
  split_ifs with hlt
  · rw [bufByte_codeBytes h hi, decFormat_getD _ _ _ hlt]
  · rw [(codeOk_codeBytes h).zero i (by omega) hi]
    rfl

/-- Settles O28: `FORMAT` has one way to end, and inside the formatter's domain the buffer it loads is the string padded
with zeros. -/
theorem formatCommand : Obligations.FormatCommand := fun s =>
  ⟨_, execFormat_eq s, rfl, fun hd hv _ hi => bufByte_codeBytes_toNat ((formatDefined_iff _ _).mpr ⟨hd, hv⟩) hi⟩

/-- Settles O29: what `FORMAT` loads is a function of the two operands, outside the formatter's domain too. -/
theorem formatReadsOnlyItsOperands : Obligations.FormatReadsOnlyItsOperands := by
  intro s s' hval hdig
  refine ⟨_, _, execFormat_eq s, execFormat_eq s', rfl, ?_, hdig⟩
  rw [putCode_code, putCode_code, hval, hdig]

end Sys2Proof.Machine
end

section
/-! The command `HOTP` (R160 to R165): what it leaves in `ERR`, `CODE` and `CODELEN`, as a function of the operands it reads,
and the four stepwise commands it is made of. The scrub it ends with (R163), and `CLEAR` (R166). -/

namespace Sys2Proof.Machine

/-- What dynamic truncation makes of the keyed hash of a counter (R161). -/
def hotpResult (a : HashAlg) (g : Word) (k : List Byte) (c : DWord) : TruncResult :=
  truncResult (bufOf _ (hmac a k (encodeCounter c))) (BitVec.ofNat 32 (digestLen a)) g

/-- `hotpTrunc` depends on the operands of `HOTP` alone. -/
theorem hotpTrunc_eq (a : HashAlg) (s : State) : hotpTrunc a s = hotpResult a s.digits (keyBytes s) s.counter := by
  simp only [hotpTrunc, hotpDigest, hotpResult, truncResult, toNat_ofNat_digestLen]

/-- The three outputs of `HOTP` (R160). -/
structure HotpOutputs where
  err     : ErrCode
  code    : Buf Config.codeMax
  codelen : BitVec 4

/-- The outputs under an error: no code (R160). -/
def hotpFailed (e : ErrCode) : HotpOutputs := { err := e, code := bufZero _, codelen := 0 }

/-- The outputs of a success: a truncation result, formatted to a width (R161). -/
def hotpFormatted (r : TruncResult) (g : Word) : HotpOutputs :=
  { err := .none, code := codeBytes r.code (g.setWidth 4), codelen := g.setWidth 4 }

/-- The outputs for the tag, the key length, the width, the key and the counter, the three tests in their order (R160). -/
def hotpOutputs (tag klen g : Word) (k : List Byte) (c : DWord) : HotpOutputs :=
  match algOf tag with
  | none => hotpFailed .unsupportedAlgorithm
  | some a =>
    if klen.toNat ≤ 256 then
      if digitsOk g then hotpFormatted (hotpResult a g k c) g else hotpFailed .invalidDigits
    else hotpFailed .keyTooLong

section
variable {tag klen g : Word} {a : HashAlg} (k : List Byte) (c : DWord)

theorem hotpOutputs_unsupported (ha : algOf tag = none) :
    hotpOutputs tag klen g k c = hotpFailed .unsupportedAlgorithm := by
  simp [hotpOutputs, ha]

theorem hotpOutputs_tooLong (ha : algOf tag = some a) (hk : 256 < klen.toNat) :
    hotpOutputs tag klen g k c = hotpFailed .keyTooLong := by
  simp [hotpOutputs, ha, hk]

theorem hotpOutputs_badDigits (ha : algOf tag = some a) (hk : klen.toNat ≤ 256) (hg : digitsOk g = false) :
    hotpOutputs tag klen g k c = hotpFailed .invalidDigits := by
  simp [hotpOutputs, ha, hk, hg]

theorem hotpOutputs_ok (ha : algOf tag = some a) (hk : klen.toNat ≤ 256) (hg : digitsOk g = true) :
    hotpOutputs tag klen g k c = hotpFormatted (hotpResult a g k c) g := by
  simp [hotpOutputs, ha, hk, hg]

end

/-- The state with the outputs of `HOTP` loaded and everything else the scrub reaches gone (R160, R163). -/
def putHotpOutputs (o : HotpOutputs) (s : State) : State :=
  scrub { s with err := o.err, code := o.code, codelen := o.codelen }

/-- `HOTP` loads its outputs and scrubs, whichever way it ends (R160). -/
theorem execHotp_eq (s : State) :
    execHotp s = .next (putHotpOutputs (hotpOutputs s.alg s.klen s.digits (keyBytes s) s.counter) s) := by
  cases ha : algOf s.alg with
  | none =>
    rw [execHotp_unsupported s ha, hotpOutputs_unsupported _ _ ha]
    rfl
  | some a =>
    by_cases hk : s.klen.toNat ≤ 256
    · have hk' : klenOk s = true := (klenOk_iff s).mpr hk
      cases hg : digitsOk s.digits with
      | false =>
        rw [execHotp_badDigits s a ha hk' hg, hotpOutputs_badDigits _ _ ha hk hg]
        rfl
      | true =>
        rw [execHotp_ok s a ha hk' hg, hotpOutputs_ok _ _ ha hk hg, hotpTrunc_eq]
        rfl
    · have hk' : klenOk s = false := Bool.eq_false_iff.mpr (mt (klenOk_iff s).mp hk)
      rw [execHotp_tooLong s a ha hk', hotpOutputs_tooLong _ _ ha (Nat.lt_of_not_le hk)]
      rfl

theorem exec_hotp_of_outputs {s : State} {o : HotpOutputs}
    (h : hotpOutputs s.alg s.klen s.digits (keyBytes s) s.counter = o) : exec .hotp s = .next (putHotpOutputs o s) :=
  h ▸ execHotp_eq s

/-- `HMAC` after `ENCODE` computes the digest of `HOTP` (R160, R161). -/
theorem execHmac_after_encode {s : State} {a : HashAlg} (ha : algOf s.alg = some a) (hk : s.klen.toNat ≤ 256) :
    let t := putMsg (encodeCounter s.counter) (setErr .none s)
    execHmac t = .next (putDigest (hmac a (keyBytes s) (encodeCounter s.counter)) (clearDigest t)) := by
  intro t
  have hmsg : msgBytes t = encodeCounter s.counter := bufOf_toList_of_length (encodeCounter_length _)
  rw [execHmac_ok t a ha ((klenOk_iff s).mpr hk), hmsg]
  rfl

/-- The length of a keyed hash passes the first test of `TRUNC` (R124, R135). -/
theorem not_badDigestLength_putDigest_hmac (a : HashAlg) (k m : List Byte) (s : State) :
    ¬BadDigestLength (putDigest (hmac a k m) s) := by
  rw [← digestLenOk_eq_false_iff, putDigest_dlen, hmac_length, digestLenOk_ofNat]
  decide

/-- The four stepwise commands, one after another, load the outputs `HOTP` formats; the scrub takes the rest (R160). -/
theorem stepwise_commands_of_good {s : State} {a : HashAlg} (ha : algOf s.alg = some a) (hk : s.klen.toNat ≤ 256)
    (hg : ¬BadDigits s) :
    ∃ t₁ t₂ t₃ t₄, execEncode s = .next t₁ ∧ execHmac t₁ = .next t₂ ∧ execTrunc t₂ = .next t₃ ∧
      execFormat t₃ = .next t₄ ∧ t₄.err = .none ∧
      scrub t₄ = putHotpOutputs (hotpFormatted (hotpResult a s.digits (keyBytes s) s.counter) s.digits) s := by
  refine ⟨_, _, _, _, execEncode_eq s, execHmac_after_encode ha hk,
    execTrunc_good (not_badDigestLength_putDigest_hmac _ _ _ _) hg, execFormat_eq _, rfl, ?_⟩
  simp only [hotpResult, ← hmac_length a (keyBytes s) (encodeCounter s.counter)]
  rfl

/-- Settles O31: each clause is one case of `hotpOutputs`, and in the last the stepwise commands load the same outputs. -/
theorem hotpCommand : Obligations.HotpCommand := by
  refine fun s => ⟨fun hu => ?_, fun hu hk => ?_, fun hu hk hg => ?_, fun hu hk hg => ?_⟩
  · exact exec_hotp_of_outputs (hotpOutputs_unsupported _ _ ((algOf_eq_none_iff s.alg).mpr hu))
  all_goals obtain ⟨a, ha⟩ := exists_algOf_of_supported hu
  · exact exec_hotp_of_outputs (hotpOutputs_tooLong _ _ ha hk)
  · exact exec_hotp_of_outputs (hotpOutputs_badDigits _ _ ha hk ((digitsOk_eq_false_iff s).mpr hg))
  · obtain ⟨t₁, t₂, t₃, t₄, h₁, h₂, h₃, h₄, he, hscrub⟩ := stepwise_commands_of_good ha hk hg
    refine ⟨t₁, t₂, t₃, t₄, h₁, h₂, h₃, h₄, he, ?_⟩
    rw [hscrub]
    exact exec_hotp_of_outputs (hotpOutputs_ok _ _ ha hk (digitsOk_of_not_bad hg))

/-- A byte inside a buffer made from a sequence is the sequence's, zero beyond its end. -/
theorem bufByte_bufOf_of_lt {n : Nat} (l : List Byte) {i : Nat} (hi : i < n) : bufByte (bufOf n l) i = l.getD i 0 := by
  rw [bufByte_bufOf, if_pos hi]

/-- The first bytes of `CODE` that holds a formatted value are the string (R153). -/
theorem take_codeBytes {v : BitVec 30} {d : BitVec 4} (h : formatDefined v d = true) :
    (codeBytes v d).toList.take d.toNat = decFormat v.toNat d.toNat := by
  have hd : d.toNat ≤ 9 := ((formatDefined_iff v d).mp h).1
  have hlen := decFormat_length v.toNat d.toNat
  have htake := take_toList_of_bufByte (b := codeBytes v d) (l := decFormat v.toNat d.toNat)
    (hlen.le.trans (hd.trans (by decide))) fun i hi => bufByte_codeBytes h (by omega)
  rwa [hlen] at htake

section
variable (a : HashAlg) (g : Word) (k : List Byte) (c : DWord)

/-- The offset is the low four bits of the last byte of the keyed hash (R136, R161). -/
theorem hotpResult_offset_toNat :
    (hotpResult a g k c).offset.toNat =
      ((hmac a k (encodeCounter c)).getD ((hmac a k (encodeCounter c)).length - 1) 0).toNat % 16 := by
  have hlen : digestLen a - 1 < 64 := by cases a <;> decide
  rw [hotpResult, truncResult, truncOffset_toNat, toNat_ofNat_digestLen, bufByte_bufOf_of_lt _ hlen, hmac_length]

/-- `P` is the big-endian window of the keyed hash with its top bit cleared (R137, R138, R161). -/
theorem hotpResult_p_toNat :
    let d := hmac a k (encodeCounter c)
    let o := (hotpResult a g k c).offset.toNat
    (hotpResult a g k c).p.toNat =
      ((d.getD o 0).toNat * 2 ^ 24 + (d.getD (o + 1) 0).toNat * 2 ^ 16 + (d.getD (o + 2) 0).toNat * 2 ^ 8 +
        (d.getD (o + 3) 0).toNat) % 2 ^ 31 := by
  intro d o
  have ho : o < 16 := (hotpResult a g k c).offset.isLt
  have hbyte (i : Nat) (hi : i < 64) : d.getD i 0 = bufByte (bufOf 64 d) i := (bufByte_bufOf_of_lt d hi).symm
  rw [hbyte o (by omega), hbyte (o + 1) (by omega), hbyte (o + 2) (by omega), hbyte (o + 3) (by omega)]
  exact truncResult_p_toNat _ _ g

end

/-- A legal width's remainder is in the domain of the formatter (R143, R150). -/
theorem hotpResult_formatDefined (a : HashAlg) {g : Word} (k : List Byte) (c : DWord) (hg : digitsOk g = true) :
    formatDefined (hotpResult a g k c).code (g.setWidth 4) = true :=
  (resultOk_truncReduce (hotpResult a g k c).p g hg).formatDefined

/-- The string `HOTP` leaves is the remainder, formatted to its width (R161). -/
theorem take_hotpFormatted_code (a : HashAlg) {g : Word} (k : List Byte) (c : DWord) (hg : digitsOk g = true) :
    (hotpFormatted (hotpResult a g k c) g).code.toList.take g.toNat =
      decFormat ((hotpResult a g k c).p.toNat % 10 ^ g.toNat) g.toNat := by
  have hcode : (hotpResult a g k c).code.toNat = (hotpResult a g k c).p.toNat % 10 ^ g.toNat :=
    truncReduce_toNat _ _ ((digitsOk_iff g).mp hg).2
  have htake := take_codeBytes (hotpResult_formatDefined a k c hg)
  rwa [setWidth_digits_toNat g hg, hcode] at htake

/-- Settles O32: the successful case of `hotpOutputs`, with the offset and `P` of its truncation read off the keyed hash. -/
theorem hotpCodeValue : Obligations.HotpCodeValue := by
  intro s a ha hk hg
  have hg' : digitsOk s.digits = true := digitsOk_of_not_bad hg
  have ha' : algOf s.alg = some a := (algOf_eq_some_iff s.alg a).mpr ha
  exact ⟨_, _, _, _, exec_hotp_of_outputs (hotpOutputs_ok _ _ ha' hk hg'), rfl, hmac_length _ _ _,
    hotpResult_offset_toNat a s.digits _ _, hotpResult_p_toNat a s.digits _ _, take_hotpFormatted_code a _ _ hg',
    setWidth_digits_toNat _ hg', rfl⟩

/-- The outputs of `HOTP` are a code of the width asked for and no error, or one of its three errors and no code (R165). -/
theorem hotpOutputs_cases (tag klen g : Word) (k : List Byte) (c : DWord) :
    (digitsOk g = true ∧ ∃ a, hotpOutputs tag klen g k c = hotpFormatted (hotpResult a g k c) g) ∨
      ∃ e, (e = .unsupportedAlgorithm ∨ e = .invalidDigits ∨ e = .keyTooLong) ∧
        hotpOutputs tag klen g k c = hotpFailed e := by
  cases ha : algOf tag with
  | none => exact .inr ⟨_, .inl rfl, hotpOutputs_unsupported k c ha⟩
  | some a =>
    by_cases hk : klen.toNat ≤ 256
    · cases hg : digitsOk g with
      | false => exact .inr ⟨_, .inr (.inl rfl), hotpOutputs_badDigits k c ha hk hg⟩
      | true => exact .inl ⟨rfl, a, hotpOutputs_ok k c ha hk hg⟩
    · exact .inr ⟨_, .inr (.inr rfl), hotpOutputs_tooLong k c ha (Nat.lt_of_not_le hk)⟩

/-- Settles O33: the state is scrubbed whatever the outputs are, and the outputs are a complete code or one error. -/
theorem hotpOutcomes : Obligations.HotpOutcomes := by
  intro s
  obtain ⟨hg, a, ho⟩ | ⟨e, he, ho⟩ := hotpOutputs_cases s.alg s.klen s.digits (keyBytes s) s.counter
  all_goals refine ⟨_, exec_hotp_of_outputs ho, ⟨rfl, rfl, rfl, rfl, rfl, rfl, rfl, rfl, rfl⟩, ?_⟩
  · left
    have hw : (s.digits.setWidth 4).toNat = s.digits.toNat := setWidth_digits_toNat _ hg
    obtain ⟨hlo, hhi⟩ := (digitsOk_iff _).mp hg
    rw [← hw] at hlo hhi
    exact ⟨rfl, hw, hlo, hhi, (codeOk_codeBytes (hotpResult_formatDefined a _ _ hg)).digit⟩
  · exact .inr ⟨he, rfl, rfl⟩

/-- Settles O34: the operands of `hotpOutputs` are all that `HOTP` reads for its outputs, and the two states agree on
them. -/
theorem hotpReadsOnlyItsOperands : Obligations.HotpReadsOnlyItsOperands := by
  intro s s' hcounter halg hklen hdigits hkey
  have hkey' : keyBytes s' = keyBytes s := by rw [keyBytes, hklen, hkey, keyBytes]
  have hs' := execHotp_eq s'
  rw [hcounter, halg, hklen, hdigits, hkey'] at hs'
  exact ⟨_, _, execHotp_eq s, hs', rfl, rfl, rfl⟩

/-- Settles O35: the scrub is one update of the named fields, its buffers are the buffers of zeros, and the next state of
`HOTP` is a scrub, which a second scrub leaves as it is. -/
theorem scrubZeroes : Obligations.ScrubZeroes := by
  refine fun s => ⟨rfl, fun i _ => bufByte_bufZero _ i, fun i _ => bufByte_bufZero _ i, fun i _ => bufByte_bufZero _ i,
    fun t ht => ?_⟩
  cases ht.symm.trans (execHotp_eq s)
  exact (scrub_scrub _).symm

/-- Settles O37: `CLEAR` has one way to end, in the reset state with the port's two sides kept. -/
theorem clearEqualsReset : Obligations.ClearEqualsReset := fun s =>
  ⟨execClear_eq s, execClear_eq _⟩

end Sys2Proof.Machine
end

section
/-! What every command and step has in common: the error a command reports (R190, R193), exactly one next state (R199), an
idle port (R205), and a `HOTP` after a `HOTP` (R217). -/

namespace Sys2Proof.Machine

/-- Settles O8: the clauses on an error are those of the commands, whose next state is the only one, and a word that is no
command's records IllegalCommand. -/
theorem commandErrorsAndPriority : Obligations.CommandErrorsAndPriority := by
  refine ⟨fun s t h => ?clear, fun s t h => ?hmac, fun s t h => ?trunc, fun s t h => ?hotp,
    fun s t w rest hin hw h => ?illegal⟩
  case clear => obtain h | h | h := h <;> cases h <;> rfl
  case hmac =>
    obtain ⟨t', h', -, -, hunsupported, htooLong, hok⟩ := hmacCommand s
    cases h.symm.trans h'
    refine ⟨fun hu => (hunsupported hu).1, fun hu hk => (htooLong hu hk).1, fun hu hk => ?_⟩
    obtain ⟨a, ha⟩ := exists_algOf_of_supported hu
    exact (hok a ((algOf_eq_some_iff s.alg a).mp ha) hk).1
  case trunc =>
    obtain ⟨t', h', -, hlength, hdigits, hok⟩ := truncCommand s
    cases h.symm.trans h'
    exact ⟨fun hn => (hlength hn).1, fun hn hg => (hdigits hn hg).1, fun hn hg => (hok hn hg).1⟩
  case hotp =>
    obtain ⟨hunsupported, htooLong, hdigits, hok⟩ := hotpCommand s
    refine ⟨fun hu => ?_, fun hu hk => ?_, fun hu hk hg => ?_, fun hu hk hg => ?_⟩
    · cases h.symm.trans (hunsupported hu)
      rfl
    · cases h.symm.trans (htooLong hu hk)
      rfl
    · cases h.symm.trans (hdigits hu hk hg)
      rfl
    · obtain ⟨_, _, _, t₄, -, -, -, -, herr, hs⟩ := hok hu hk hg
      cases h.symm.trans hs
      exact herr
  case illegal =>
    cases h.symm.trans (illegalWordOnlySetsErr s w rest hin hw).1
    rfl

/-- An outcome that is a next state is that of one state only. -/
theorem existsUnique_next {o : Host.Outcome State Fault Refusal} (h : ∃ t, o = .next t) : ∃! t, o = .next t := by
  obtain ⟨t, rfl⟩ := h
  exact ⟨t, rfl, fun _ hu => (Host.Outcome.next.inj hu).symm⟩

/-- Settles O5: no command and no step ends in a fault or a refusal, and an outcome has one state at most. -/
theorem everyStepHasOneNextState : Obligations.EveryStepHasOneNextState :=
  ⟨fun i s => existsUnique_next (exec_has_next i s), fun s => existsUnique_next (step_has_next s)⟩

theorem portEvent_of_noReq {p : PortIn} (hr : p.rst = false) (hq : p.req = false) : portEvent p = .idle := by
  simp [portEvent, hr, hq]

/-- Settles O40: an empty inbox and pins with `rst` and `req` low are both the idle event. -/
theorem idleHoldsState : Obligations.IdleHoldsState :=
  ⟨step_idle, fun s p rest hin hr hq => step_noReq s p rest hin (portEvent_of_noReq hr hq)⟩

theorem keyBytes_of_klen_eq_zero {s : State} (h : s.klen = 0) : keyBytes s = [] := by simp [keyBytes, h]

/-- Settles O36: the first `HOTP` leaves `KLEN` zero and the other operands as they were, so both runs load the outputs for
the empty key; what else differs between the two states, the scrub zeroes. -/
theorem secondHotpUsesEmptyKey : Obligations.SecondHotpUsesEmptyKey := by
  intro s t h
  cases h.symm.trans (execHotp_eq s)
  have second {u : State} (hk : u.klen = 0) :
      exec .hotp u = .next (putHotpOutputs (hotpOutputs u.alg 0 u.digits [] u.counter) u) := by
    rw [← hk, ← keyBytes_of_klen_eq_zero hk]
    exact execHotp_eq u
  rw [second rfl, second rfl]
  rfl

end Sys2Proof.Machine
end

section
/-! Scripts line by line (R68): the loads of the operands of `HOTP`, the command, and the read of `STATUS` and of the code. -/

namespace Sys2Proof.Machine

/-- The address of a register of the map is a quarter of its offset, which fits the window (R30, R40). -/
theorem four_mul_regAddr_toNat {r : PortReg} (hm : isMapped r = true) : 4 * (regAddr r).toNat = regOffset r := by
  cases r with
  | id | cmd | status | alg | digits | klen | counterLo | counterHi | dlen | offset | bincode | codeval | codedig
  | codelen => rfl
  | msgW w | codeW w | digestW w | keyW w =>
    simp only [isMapped, regIndexOk, decide_eq_true_eq] at hm
    simp only [regAddr, regOffset, BitVec.toNat_ofNat, Config.addrBits]
    omega
  | reserved => simp [isMapped] at hm

/-- The address of a register of the map leads back to it (R30). -/
theorem regAt_regAddr {r : PortReg} (hm : isMapped r = true) : regAt (regAddr r) = r :=
  regAt_of_offset hm (four_mul_regAddr_toNat hm)

/-- A `WR` line to a register of the map other than `CMD`. -/
theorem runLine_wrReg {r : PortReg} (hm : isMapped r = true) (hc : r ≠ .cmd) (v : Word) (s : State) :
    runLine (wrReg r v) s = (writeReg r v (setOut .ackWrite s), []) := by
  have hr := regAt_regAddr hm
  rw [wrReg, runLine_wr _ _ _ (hr.symm ▸ hc), hr]

/-- An `RD` line of a register of the map. -/
theorem runLine_rdReg {r : PortReg} (hm : isMapped r = true) (s : State) :
    runLine (rdReg r) s = (setOut (.ackRead (readReg r s)) s, [readReg r s]) := by
  rw [rdReg, runLine_rd, regAt_regAddr hm]

/-- The two halves of a counter are the counter (R19). -/
theorem counterHalves_append (c : DWord) : c.extractLsb' 32 32 ++ c.extractLsb' 0 32 = c :=
  (BitVec.extractLsb'_append_extractLsb'_eq_extractLsb' rfl).trans BitVec.extractLsb'_eq_self

/-- `LDCTR` loads the counter: the second word keeps the half the first has written (R68). -/
theorem runScript_ldctr (c : DWord) (s : State) :
    runScript (ldctr c) s = ({ s with counter := c, out := .ackWrite }, []) := by
  simp only [ldctr, runScript, runLine_wrReg (r := .counterLo) rfl nofun, runLine_wrReg (r := .counterHi) rfl nofun,
    writeReg, setOut_counter, BitVec.extractLsb'_append_eq_right, counterHalves_append]
  rfl

/-- The block once the operands of a `HOTP` are loaded (R178). -/
def hotpLoaded (k : List Byte) (c : DWord) (g tag : Word) (s : State) : State :=
  { s with
    key := loadWords k (wordCount k) s.key, klen := BitVec.ofNat 32 k.length, counter := c, alg := tag, digits := g
    out := .ackWrite }

theorem toNat_keyLength {k : List Byte} (hk : k.length ≤ 256) : (BitVec.ofNat 32 k.length).toNat = k.length := by
  rw [BitVec.toNat_ofNat, Nat.mod_eq_of_lt (by omega)]

/-- The secret of the loaded block is the key, whatever `KEY` held (R68). -/
theorem keyBytes_hotpLoaded {k : List Byte} (hk : k.length ≤ 256) (c : DWord) (g tag : Word) (s : State) :
    keyBytes (hotpLoaded k c g tag s) = k := by
  obtain ⟨t, ht, -, hkey, -⟩ := ldkeyLoadsKey k s hk
  cases ht.symm.trans (runScript_ldkey k hk s)
  exact hkey

/-- The operand loads of `generate_hotp` (R178). -/
theorem runScript_hotpLoads {k : List Byte} (hk : k.length ≤ 256) (c : DWord) (g tag : Word) (s : State) :
    runScript (ldkey k ++ ldctr c ++ [wrReg .alg tag, wrReg .digits g]) s = (hotpLoaded k c g tag s, []) := by
  rw [runScript_append, runScript_append, runScript_ldkey k hk, runScript_ldctr]
  simp only [runScript, runLine_wrReg (r := .alg) rfl nofun, runLine_wrReg (r := .digits) rfl nofun]
  rfl

/-- What `HOTP` leaves for an algorithm tag, a width, a key and a counter loaded by `generate_hotp` (R160, R178). -/
def callOutputs (k : List Byte) (c : DWord) (g tag : Word) : HotpOutputs :=
  hotpOutputs tag (BitVec.ofNat 32 k.length) g k c

/-- The whole of the first script of `generate_hotp`: the loads, `HOTP`, and the read of `STATUS` (R178). -/
theorem runScript_hotpScript {k : List Byte} (hk : k.length ≤ 256) (c : DWord) (g tag : Word) (s : State) :
    let o := callOutputs k c g tag
    ∃ out, runScript (hotpScript k c g tag) s =
      (setOut out (putHotpOutputs o (hotpLoaded k c g tag s)), [statusWord o.err]) := by
  intro o
  have hsplit : hotpScript k c g tag =
      (ldkey k ++ ldctr c ++ [wrReg .alg tag, wrReg .digits g]) ++ [cmdLine .hotp, rdReg .status] := by
    simp [hotpScript]
  have houtputs : exec .hotp (setOut .ackWrite (hotpLoaded k c g tag s)) =
      .next (putHotpOutputs o (hotpLoaded k c g tag s)) :=
    exec_hotp_of_outputs (congrArg (hotpOutputs tag _ g · c) (keyBytes_hotpLoaded hk c g tag s))
  rw [hsplit, runScript_append, runScript_hotpLoads hk]
  simp only [runScript, runLine_cmd .hotp _ _ (decode_encode _) houtputs rfl, runLine_rdReg (r := .status) rfl]
  exact ⟨_, rfl⟩

theorem statusErr_statusWord (e : ErrCode) : statusErr [statusWord e] = some e := by cases e <;> rfl

theorem unpackWord_bufWord {n : Nat} (b : Buf n) (w : Nat) :
    unpackWord (bufWord b w) = [bufByte b (4 * w), bufByte b (4 * w + 1), bufByte b (4 * w + 2), bufByte b (4 * w + 3)] := by
  simp only [unpackWord, laneByte_bufWord b w _ (show 0 < 4 by decide), laneByte_bufWord b w _ (show 1 < 4 by decide),
    laneByte_bufWord b w _ (show 2 < 4 by decide), laneByte_bufWord b w _ (show 3 < 4 by decide), Nat.add_zero]

theorem toList_eq_map_bufByte {n : Nat} (b : Buf n) : b.toList = (List.range n).map (bufByte b) := by
  apply List.ext_getElem
  · simp
  · intro i hi _
    simp [bufByte_of_lt b i (by simpa using hi)]

/-- The three words of `CODE` unpack to its twelve bytes (R46). -/
theorem flatMap_unpackWord_code (b : Buf Config.codeMax) :
    [bufWord b 0, bufWord b 1, bufWord b 2].flatMap unpackWord = b.toList := by
  simp only [List.flatMap_cons, List.flatMap_nil, unpackWord_bufWord, toList_eq_map_bufByte b]
  rfl

/-- `RDCODE` gives the first `CODELEN` bytes of `CODE` (R68). -/
theorem codeOf_rdcode (s : State) : codeOf (runScript rdcode s).2 = s.code.toList.take s.codelen.toNat := by
  have hlen : (s.codelen.setWidth 32).toNat = s.codelen.toNat := BitVec.toNat_setWidth_of_le (by decide)
  simp only [rdcode, runScript, runLine_rdReg (r := .codelen) rfl, runLine_rdReg (r := .codeW 0) rfl,
    runLine_rdReg (r := .codeW 1) rfl, runLine_rdReg (r := .codeW 2) rfl]
  rw [← hlen, ← flatMap_unpackWord_code]
  rfl

end Sys2Proof.Machine
end

section
/-! The wrapper software (R175 to R182): the result of a call as a function of the outputs of `HOTP`, and the checks that come
before any transaction (R176, R179). -/

namespace Sys2Proof.Machine

/-- What a call returns for the outputs of its `HOTP`: the error, or the code (R178). -/
def callResult (o : HotpOutputs) : Except ErrCode (List Byte) :=
  if o.err = .none then .ok (o.code.toList.take o.codelen.toNat) else .error o.err

theorem callResult_hotpFailed {e : ErrCode} (he : e ≠ .none) : callResult (hotpFailed e) = .error e := if_neg he

/-- A call returns what the outputs of its `HOTP` say (R178). -/
theorem hotpCall_result {k : List Byte} (hk : k.length ≤ 256) (c : DWord) (g tag : Word) (s : State) :
    (hotpCall k c g tag s).1 = callResult (callOutputs k c g tag) := by
  obtain ⟨out, hrun⟩ := runScript_hotpScript hk c g tag s
  simp only [hotpCall, if_neg (Nat.not_lt.mpr hk), hrun, statusErr_statusWord, callResult]
  by_cases he : (callOutputs k c g tag).err = .none
  · simp only [he, codeOf_rdcode]
    rfl
  · simp only [if_neg he]

theorem generateHotpTag_of_decoded {secret : List Char} {k : List Byte} (hs : base32Decode secret = some k) (c : DWord)
    (g tag : Word) (s : State) : generateHotpTag secret c g tag s = hotpCall k c g tag s := by
  simp only [generateHotpTag, hs]

/-- A malformed secret reaches the block with no transaction (R176). -/
theorem generateHotpTag_of_malformed {secret : List Char} (hs : base32Decode secret = none) (c : DWord) (g tag : Word)
    (s : State) : generateHotpTag secret c g tag s = (.error .invalidSecret, s) := by
  simp only [generateHotpTag, hs]

theorem totpCounter_zero (now : DWord) : totpCounter now 0 = .error .invalidStep := if_pos rfl

theorem totpCounter_of_ne_zero (now : DWord) {stp : DWord} (hstp : stp ≠ 0) : totpCounter now stp = .ok (now / stp) :=
  if_neg hstp

/-- With a step that is not zero, `generate_totp` is `generate_hotp` at the counter `now div step`, and a malformed secret is
its error too (R180, R181). -/
theorem generateTotpTag_eq_generateHotpTag (secret : List Char) {stp : DWord} (hstp : stp ≠ 0) (g tag : Word)
    (now : DWord) (s : State) :
    generateTotpTag secret stp g tag now s = generateHotpTag secret (now / stp) g tag s := by
  cases hs : base32Decode secret with
  | none => simp only [generateTotpTag, hs, totpCounter_of_ne_zero now hstp, generateHotpTag_of_malformed hs]
  | some k => simp only [generateTotpTag, hs, totpCounter_of_ne_zero now hstp, generateHotpTag_of_decoded hs]

/-- Settles O53: the two cases of the counter, and an entry point that is the other one at that counter. -/
theorem totpCounterDivides : Obligations.TotpCounterDivides := by
  refine fun now stp => ⟨fun hstp => hstp ▸ totpCounter_zero now, fun hstp => ?_⟩
  exact ⟨_, totpCounter_of_ne_zero now hstp, BitVec.toNat_udiv, fun secret g a s _ =>
    generateTotpTag_eq_generateHotpTag secret hstp g (algTag a) now s⟩

/-- Settles O54: a failed check is answered before any script runs; of two failed checks the open order picks one. -/
theorem failedChecksTouchNothing : Obligations.FailedChecksTouchNothing := by
  refine fun secret counter stp now g a s => ⟨fun hs => generateHotpTag_of_malformed hs .., fun hs hstp => ?_,
    fun hs hstp => ?_, fun hs hstp => ?_⟩
  · exact (generateTotpTag_eq_generateHotpTag secret hstp ..).trans (generateHotpTag_of_malformed hs ..)
  · obtain ⟨k, hk⟩ := Option.ne_none_iff_exists'.mp hs
    simp only [generateTotp, generateTotpTag, hk, hstp, totpCounter_zero]
  · simp only [generateTotp, generateTotpTag, hs, hstp, totpCounter_zero]
    cases Config.wrapperStepFirst with
    | true => exact .inr rfl
    | false => exact .inl rfl

/-- Settles O55: the loaded operands pass the three tests of `HOTP`, so the call returns the formatted truncation of the keyed
hash, with the offset and `P` read off it. -/
theorem generateHotpReturnsCode : Obligations.GenerateHotpReturnsCode := by
  intro secret k counter g a s hs hk hlo hhi
  have hg : digitsOk g = true := (digitsOk_iff g).mpr ⟨hlo, hhi⟩
  have houtputs : callOutputs k counter g (algTag a) = hotpFormatted (hotpResult a g k counter) g :=
    hotpOutputs_ok k counter ((algOf_eq_some_iff _ a).mpr rfl) ((toNat_keyLength hk).trans_le hk) hg
  refine ⟨_, _, _, rfl, hotpResult_offset_toNat a g k counter, hotpResult_p_toNat a g k counter, ?_⟩
  calc (generateHotp secret counter g a s).1
      = callResult (hotpFormatted (hotpResult a g k counter) g) := by
        rw [generateHotp, generateHotpTag_of_decoded hs, hotpCall_result hk, houtputs]
    _ = .ok ((hotpFormatted (hotpResult a g k counter) g).code.toList.take (g.setWidth 4).toNat) := rfl
    _ = _ := by rw [setWidth_digits_toNat g hg, take_hotpFormatted_code a k counter hg]

/-- The value the binding writes for a foreign tag selects no algorithm, so `HOTP` raises (R182). -/
theorem generateHotpTag_foreign {secret : List Char} {k : List Byte} (hs : base32Decode secret = some k)
    (hk : k.length ≤ 256) (c : DWord) (g : Word) (s : State) :
    (generateHotpTag secret c g (bindingTag none) s).1 = .error .unsupportedAlgorithm := by
  have houtputs : callOutputs k c g (bindingTag none) = hotpFailed .unsupportedAlgorithm :=
    hotpOutputs_unsupported k c rfl
  rw [generateHotpTag_of_decoded hs, hotpCall_result hk, houtputs]
  exact callResult_hotpFailed nofun

/-- Settles O60: the binding writes a member's own tag, and a foreign tag fails in the block, for `generate_totp` at the
counter `now div step`. -/
theorem foreignTagIsUnsupported : Obligations.ForeignTagIsUnsupported := by
  refine fun secret counter stp now g s => ⟨fun a => ⟨rfl, rfl⟩, fun k hs hk =>
    ⟨generateHotpTag_foreign hs hk counter g s, fun hstp => ?_⟩⟩
  rw [generateTotpBound, generateTotpTag_eq_generateHotpTag secret hstp]
  exact generateHotpTag_foreign hs hk _ g s

end Sys2Proof.Machine
end
